-- ==== Sys2Proof/Word.lean ====
section
/-! DEFINITION. The widths of the machine (00_scope.md R4). -/

namespace Sys2Proof

/-- The addressable unit, and the width of A, X, Y and SP (00_scope.md R4). -/
abbrev Byte := BitVec 8

/-- The width of PC and of every address (00_scope.md R4). -/
abbrev Word := BitVec 16

end Sys2Proof
end

