-- ==== Sys2Proof/Config.lean ====
section
/-! DEFINITION. The values the spec leaves to the implementation or to the host. -/

namespace Sys2Proof.Config

/-- `SP_RESET`, the one open parameter (00_scope.md R4, 92_eei_decisions.md D3). DESIGN CHOICE (log entry 1):
the value the conventions of 95_test_vectors.md take. `Machine.State.resetWith` takes every other value. -/
def spReset : Byte := 0xFF

/-- What a byte of memory that nothing has written reads as. DESIGN CHOICE (log entry 2): the value the
memory collaborator's own reset leaves (20_memory.md R65). -/
def unlistedByte : Byte := 0x00

end Sys2Proof.Config
end

