-- ==== Sys2Proof/Syntax.lean ====
section
/-! DEFINITION. Instructions as syntax: the addressing modes, the operand forms and `Instr`, one constructor for
each mnemonic of spec/opcode_table.json. The rows of one mnemonic differ in the mode only; they are the operand
forms of its one constructor (log entry 24). -/

namespace Sys2Proof

/-- The seventeen addressing modes, under the mode codes of 30_encoding.md R75. -/
inductive Mode where
  | abs | abx | aby | ind | iax | acc | imm | imp | rel | zpr | stk | zp | zpx | zpy | izx | izp | izy
deriving DecidableEq, Repr

/-- The operand bytes a mode fetches after the opcode (40_addressing_modes.md R109). -/
def Mode.operandBytes : Mode → Nat
  | .imp | .acc | .stk => 0
  | .imm | .zp | .zpx | .zpy | .izx | .izp | .izy | .rel => 1
  | .abs | .abx | .aby | .ind | .iax | .zpr => 2

/-- A memory operand: one of the nine modes whose handle is `Mem(ea, crossed)` and which name data
(40_addressing_modes.md R90, R108), with its operand byte or word. -/
inductive MemOperand where
  | abs (w : Word)
  | abx (w : Word)
  | aby (w : Word)
  | zp  (z : Byte)
  | zpx (z : Byte)
  | zpy (z : Byte)
  | izx (z : Byte)
  | izp (z : Byte)
  | izy (z : Byte)
deriving DecidableEq, Repr

/-- An operand that is read only: immediate or memory. -/
inductive Src where
  | imm (v : Byte)
  | mem (m : MemOperand)
deriving DecidableEq, Repr

/-- An operand that is read and written back: the accumulator or memory. -/
inductive Rmw where
  | acc
  | mem (m : MemOperand)
deriving DecidableEq, Repr

/-- The target of JMP (44_branch_jump.md R213). -/
inductive Target where
  | abs (w : Word)
  | ind (w : Word)
  | iax (w : Word)
deriving DecidableEq, Repr

def MemOperand.mode : MemOperand → Mode
  | .abs _ => .abs
  | .abx _ => .abx
  | .aby _ => .aby
  | .zp _ => .zp
  | .zpx _ => .zpx
  | .zpy _ => .zpy
  | .izx _ => .izx
  | .izp _ => .izp
  | .izy _ => .izy

def Src.mode : Src → Mode
  | .imm _ => .imm
  | .mem m => m.mode

def Rmw.mode : Rmw → Mode
  | .acc => .acc
  | .mem m => m.mode

def Target.mode : Target → Mode
  | .abs _ => .abs
  | .ind _ => .ind
  | .iax _ => .iax

/-- The instructions of 30_encoding.md R76. `r` is a branch offset byte, `z` a zero-page address. The mnemonics
of the bit instructions name their bit, so each bit has its constructor; `unassigned op` is the table's
`(unassigned)`, a byte of R77, whose execution is the decode failure of 60_exceptions.md R271. -/
inductive Instr where
  -- 41_load_store_transfer.md
  | lda (o : Src) | ldx (o : Src) | ldy (o : Src)
  | sta (m : MemOperand) | stx (m : MemOperand) | sty (m : MemOperand) | stz (m : MemOperand)
  | tax | tay | txa | tya | tsx | txs
  -- 42_arithmetic.md
  | adc (o : Src) | sbc (o : Src)
  | cmp (o : Src) | cpx (o : Src) | cpy (o : Src)
  | inc (o : Rmw) | dec (o : Rmw)
  | inx | iny | dex | dey
  -- 43_logic_shift_bit.md
  | and (o : Src) | ora (o : Src) | eor (o : Src) | bit (o : Src)
  | asl (o : Rmw) | lsr (o : Rmw) | rol (o : Rmw) | ror (o : Rmw)
  | trb (m : MemOperand) | tsb (m : MemOperand)
  | rmb0 (z : Byte) | rmb1 (z : Byte) | rmb2 (z : Byte) | rmb3 (z : Byte)
  | rmb4 (z : Byte) | rmb5 (z : Byte) | rmb6 (z : Byte) | rmb7 (z : Byte)
  | smb0 (z : Byte) | smb1 (z : Byte) | smb2 (z : Byte) | smb3 (z : Byte)
  | smb4 (z : Byte) | smb5 (z : Byte) | smb6 (z : Byte) | smb7 (z : Byte)
  -- 44_branch_jump.md
  | bcc (r : Byte) | bcs (r : Byte) | beq (r : Byte) | bne (r : Byte) | bmi (r : Byte)
  | bpl (r : Byte) | bvc (r : Byte) | bvs (r : Byte) | bra (r : Byte)
  | bbr0 (z r : Byte) | bbr1 (z r : Byte) | bbr2 (z r : Byte) | bbr3 (z r : Byte)
  | bbr4 (z r : Byte) | bbr5 (z r : Byte) | bbr6 (z r : Byte) | bbr7 (z r : Byte)
  | bbs0 (z r : Byte) | bbs1 (z r : Byte) | bbs2 (z r : Byte) | bbs3 (z r : Byte)
  | bbs4 (z r : Byte) | bbs5 (z r : Byte) | bbs6 (z r : Byte) | bbs7 (z r : Byte)
  | jmp (t : Target) | jsr (w : Word) | rts
  -- 45_stack_flag_system.md
  | pha | php | phx | phy | pla | plp | plx | ply
  | clc | cld | cli | clv | sec | sed | sei | nop
  | brk | rti | wai | stp
  -- 60_exceptions.md
  | unassigned (op : Byte)
deriving DecidableEq, Repr

/-- The addressing mode of an instruction (30_encoding.md R76); an unassigned byte has none. -/
def Instr.mode : Instr → Option Mode
  | .lda o | .ldx o | .ldy o | .adc o | .sbc o | .cmp o | .cpx o | .cpy o | .and o | .ora o | .eor o | .bit o => some o.mode
  | .sta m | .stx m | .sty m | .stz m | .trb m | .tsb m => some m.mode
  | .inc o | .dec o | .asl o | .lsr o | .rol o | .ror o => some o.mode
  | .tax | .tay | .txa | .tya | .tsx | .txs | .inx | .iny | .dex | .dey => some .imp
  | .rmb0 _ | .rmb1 _ | .rmb2 _ | .rmb3 _ | .rmb4 _ | .rmb5 _ | .rmb6 _ | .rmb7 _ => some .zp
  | .smb0 _ | .smb1 _ | .smb2 _ | .smb3 _ | .smb4 _ | .smb5 _ | .smb6 _ | .smb7 _ => some .zp
  | .bcc _ | .bcs _ | .beq _ | .bne _ | .bmi _ | .bpl _ | .bvc _ | .bvs _ | .bra _ => some .rel
  | .bbr0 _ _ | .bbr1 _ _ | .bbr2 _ _ | .bbr3 _ _ | .bbr4 _ _ | .bbr5 _ _ | .bbr6 _ _ | .bbr7 _ _ => some .zpr
  | .bbs0 _ _ | .bbs1 _ _ | .bbs2 _ _ | .bbs3 _ _ | .bbs4 _ _ | .bbs5 _ _ | .bbs6 _ _ | .bbs7 _ _ => some .zpr
  | .jmp t => some t.mode
  | .jsr _ => some .abs
  | .rts | .pha | .php | .phx | .phy | .pla | .plp | .plx | .ply | .brk | .rti => some .stk
  | .clc | .cld | .cli | .clv | .sec | .sed | .sei | .nop | .wai | .stp => some .imp
  | .unassigned _ => none

/-- The length in bytes: one for the opcode and one for each operand byte; an unassigned byte has length 1
(30_encoding.md R70, R78). -/
def Instr.length (i : Instr) : Nat :=
  match i.mode with
  | some m => 1 + m.operandBytes
  | none => 1

end Sys2Proof
end

