-- ==== Sys2Proof/WellFormed.lean ====
section
/-! DEFINITION. Which terms are instructions of the machine: the pairs of an instruction and a mode that the opcode
matrix assigns (30_encoding.md R75, R76; 40_addressing_modes.md R108). That no operation meets a mode without the
capability it needs is in the operand types already; what is checked here is the matrix. -/

namespace Sys2Proof

/-- The 44 bytes the documented W65C02S set does not assign (30_encoding.md R77, list for list). -/
def unassignedBytes : List Byte :=
  [0x02, 0x22, 0x42, 0x62, 0x82, 0xC2, 0xE2]
  ++ [0x03, 0x13, 0x23, 0x33, 0x43, 0x53, 0x63, 0x73, 0x83, 0x93, 0xA3, 0xB3, 0xC3, 0xD3, 0xE3, 0xF3]
  ++ [0x44, 0x54, 0xD4, 0xF4]
  ++ [0x0B, 0x1B, 0x2B, 0x3B, 0x4B, 0x5B, 0x6B, 0x7B, 0x8B, 0x9B, 0xAB, 0xBB, 0xEB, 0xFB]
  ++ [0x5C, 0xDC, 0xFC]

/-- The modes of ADC, AND, CMP, EOR, LDA, ORA and SBC; STA takes them but immediate (30_encoding.md R76). -/
def Mode.ofAccumulatorGroup : List Mode := [.izx, .zp, .imm, .abs, .izy, .izp, .zpx, .aby, .abx]

/-- Whether an instruction term is one the opcode matrix encodes. -/
def Instr.wf : Instr → Bool
  | .adc o | .and o | .cmp o | .eor o | .lda o | .ora o | .sbc o => Mode.ofAccumulatorGroup.contains o.mode
  | .sta m => Mode.ofAccumulatorGroup.contains m.mode
  | .ldx o => [Mode.imm, .zp, .abs, .zpy, .aby].contains o.mode
  | .ldy o => [Mode.imm, .zp, .abs, .zpx, .abx].contains o.mode
  | .stx m => [Mode.zp, .abs, .zpy].contains m.mode
  | .sty m => [Mode.zp, .abs, .zpx].contains m.mode
  | .stz m => [Mode.zp, .zpx, .abs, .abx].contains m.mode
  | .cpx o | .cpy o => [Mode.imm, .zp, .abs].contains o.mode
  | .bit o => [Mode.zp, .abs, .zpx, .abx, .imm].contains o.mode
  | .inc o | .dec o | .asl o | .lsr o | .rol o | .ror o => [Mode.acc, .zp, .abs, .zpx, .abx].contains o.mode
  | .trb m | .tsb m => [Mode.zp, .abs].contains m.mode
  | .unassigned op => unassignedBytes.contains op
  | .tax | .tay | .txa | .tya | .tsx | .txs | .inx | .iny | .dex | .dey => true
  | .rmb0 _ | .rmb1 _ | .rmb2 _ | .rmb3 _ | .rmb4 _ | .rmb5 _ | .rmb6 _ | .rmb7 _ => true
  | .smb0 _ | .smb1 _ | .smb2 _ | .smb3 _ | .smb4 _ | .smb5 _ | .smb6 _ | .smb7 _ => true
  | .bcc _ | .bcs _ | .beq _ | .bne _ | .bmi _ | .bpl _ | .bvc _ | .bvs _ | .bra _ => true
  | .bbr0 _ _ | .bbr1 _ _ | .bbr2 _ _ | .bbr3 _ _ | .bbr4 _ _ | .bbr5 _ _ | .bbr6 _ _ | .bbr7 _ _ => true
  | .bbs0 _ _ | .bbs1 _ _ | .bbs2 _ _ | .bbs3 _ _ | .bbs4 _ _ | .bbs5 _ _ | .bbs6 _ _ | .bbs7 _ _ => true
  | .jmp _ | .jsr _ | .rts => true
  | .pha | .php | .phx | .phy | .pla | .plp | .plx | .ply => true
  | .clc | .cld | .cli | .clv | .sec | .sed | .sei | .nop => true
  | .brk | .rti | .wai | .stp => true

end Sys2Proof
end

