-- ==== Sys2Proof/Decode.lean ====
section
/-! DEFINITION. The opcode matrix of 30_encoding.md R75, the decoder that reads it, and, after it, the encoder, written
from the by-mnemonic list of R76. That the two agree is a theorem, not a definition. Opcode byte values: log entry 8. -/

namespace Sys2Proof

/-- `{hi, lo}` (00_scope.md R5). -/
def wordOf (lo hi : Byte) : Word := hi ++ lo

/-- The low byte of a word. -/
def loByte (w : Word) : Byte := w.setWidth 8

/-- The high byte of a word. -/
def hiByte (w : Word) : Byte := (w >>> 8).setWidth 8

/-- `zext_16` (00_scope.md R6). -/
def zext16 (b : Byte) : Word := b.setWidth 16

/-- `sext_16` (00_scope.md R6, 30_encoding.md R73). -/
def sext16 (b : Byte) : Word := b.signExtend 16

/-! ## The decoder -/

/-- What one opcode byte means: the instruction its operand bytes complete (formats of 30_encoding.md R70). -/
inductive Cell where
  /-- A byte of 30_encoding.md R77. -/
  | unassigned
  /-- Format F1. -/
  | f1 (i : Instr)
  /-- Formats F2 and F2R: one operand byte. -/
  | f2 (mk : Byte → Instr)
  /-- Format F3: an operand word, low byte first. -/
  | f3 (mk : Word → Instr)
  /-- Format F3R: zero-page address, then branch offset. -/
  | f3r (mk : Byte → Byte → Instr)

/-! The cells of one mode, for an instruction of each operand form. -/

def Cell.imm (mk : Src → Instr) : Cell := .f2 fun d => mk (.imm d)
def Cell.acc (mk : Rmw → Instr) : Cell := .f1 (mk .acc)
def Cell.zp  (mk : MemOperand → Instr) : Cell := .f2 fun d => mk (.zp d)
def Cell.zpx (mk : MemOperand → Instr) : Cell := .f2 fun d => mk (.zpx d)
def Cell.zpy (mk : MemOperand → Instr) : Cell := .f2 fun d => mk (.zpy d)
def Cell.izx (mk : MemOperand → Instr) : Cell := .f2 fun d => mk (.izx d)
def Cell.izp (mk : MemOperand → Instr) : Cell := .f2 fun d => mk (.izp d)
def Cell.izy (mk : MemOperand → Instr) : Cell := .f2 fun d => mk (.izy d)
def Cell.abs (mk : MemOperand → Instr) : Cell := .f3 fun w => mk (.abs w)
def Cell.abx (mk : MemOperand → Instr) : Cell := .f3 fun w => mk (.abx w)
def Cell.aby (mk : MemOperand → Instr) : Cell := .f3 fun w => mk (.aby w)

/-- An instruction with a read operand, as one with a memory operand. -/
def rd (mk : Src → Instr) : MemOperand → Instr := fun m => mk (.mem m)

/-- An instruction with a read-modify-write operand, as one with a memory operand. -/
def rm (mk : Rmw → Instr) : MemOperand → Instr := fun m => mk (.mem m)

/-! The opcode matrix of 30_encoding.md R75, row by row: row = opcode[7:4], column = opcode[3:0]. -/

def opcodeRows0to3 : List (List Cell) :=
  [[.f1 .brk, .izx (rd .ora), .unassigned, .unassigned, .zp .tsb, .zp (rd .ora), .zp (rm .asl), .f2 .rmb0,
    .f1 .php, .imm .ora, .acc .asl, .unassigned, .abs .tsb, .abs (rd .ora), .abs (rm .asl), .f3r .bbr0],
   [.f2 .bpl, .izy (rd .ora), .izp (rd .ora), .unassigned, .zp .trb, .zpx (rd .ora), .zpx (rm .asl), .f2 .rmb1,
    .f1 .clc, .aby (rd .ora), .acc .inc, .unassigned, .abs .trb, .abx (rd .ora), .abx (rm .asl), .f3r .bbr1],
   [.f3 .jsr, .izx (rd .and), .unassigned, .unassigned, .zp (rd .bit), .zp (rd .and), .zp (rm .rol), .f2 .rmb2,
    .f1 .plp, .imm .and, .acc .rol, .unassigned, .abs (rd .bit), .abs (rd .and), .abs (rm .rol), .f3r .bbr2],
   [.f2 .bmi, .izy (rd .and), .izp (rd .and), .unassigned, .zpx (rd .bit), .zpx (rd .and), .zpx (rm .rol), .f2 .rmb3,
    .f1 .sec, .aby (rd .and), .acc .dec, .unassigned, .abx (rd .bit), .abx (rd .and), .abx (rm .rol), .f3r .bbr3]]

def opcodeRows4to7 : List (List Cell) :=
  [[.f1 .rti, .izx (rd .eor), .unassigned, .unassigned, .unassigned, .zp (rd .eor), .zp (rm .lsr), .f2 .rmb4,
    .f1 .pha, .imm .eor, .acc .lsr, .unassigned, .f3 fun w => .jmp (.abs w), .abs (rd .eor), .abs (rm .lsr), .f3r .bbr4],
   [.f2 .bvc, .izy (rd .eor), .izp (rd .eor), .unassigned, .unassigned, .zpx (rd .eor), .zpx (rm .lsr), .f2 .rmb5,
    .f1 .cli, .aby (rd .eor), .f1 .phy, .unassigned, .unassigned, .abx (rd .eor), .abx (rm .lsr), .f3r .bbr5],
   [.f1 .rts, .izx (rd .adc), .unassigned, .unassigned, .zp .stz, .zp (rd .adc), .zp (rm .ror), .f2 .rmb6,
    .f1 .pla, .imm .adc, .acc .ror, .unassigned, .f3 fun w => .jmp (.ind w), .abs (rd .adc), .abs (rm .ror), .f3r .bbr6],
   [.f2 .bvs, .izy (rd .adc), .izp (rd .adc), .unassigned, .zpx .stz, .zpx (rd .adc), .zpx (rm .ror), .f2 .rmb7,
    .f1 .sei, .aby (rd .adc), .f1 .ply, .unassigned, .f3 fun w => .jmp (.iax w), .abx (rd .adc), .abx (rm .ror), .f3r .bbr7]]

def opcodeRows8toB : List (List Cell) :=
  [[.f2 .bra, .izx .sta, .unassigned, .unassigned, .zp .sty, .zp .sta, .zp .stx, .f2 .smb0,
    .f1 .dey, .imm .bit, .f1 .txa, .unassigned, .abs .sty, .abs .sta, .abs .stx, .f3r .bbs0],
   [.f2 .bcc, .izy .sta, .izp .sta, .unassigned, .zpx .sty, .zpx .sta, .zpy .stx, .f2 .smb1,
    .f1 .tya, .aby .sta, .f1 .txs, .unassigned, .abs .stz, .abx .sta, .abx .stz, .f3r .bbs1],
   [.imm .ldy, .izx (rd .lda), .imm .ldx, .unassigned, .zp (rd .ldy), .zp (rd .lda), .zp (rd .ldx), .f2 .smb2,
    .f1 .tay, .imm .lda, .f1 .tax, .unassigned, .abs (rd .ldy), .abs (rd .lda), .abs (rd .ldx), .f3r .bbs2],
   [.f2 .bcs, .izy (rd .lda), .izp (rd .lda), .unassigned, .zpx (rd .ldy), .zpx (rd .lda), .zpy (rd .ldx), .f2 .smb3,
    .f1 .clv, .aby (rd .lda), .f1 .tsx, .unassigned, .abx (rd .ldy), .abx (rd .lda), .aby (rd .ldx), .f3r .bbs3]]

def opcodeRowsCtoF : List (List Cell) :=
  [[.imm .cpy, .izx (rd .cmp), .unassigned, .unassigned, .zp (rd .cpy), .zp (rd .cmp), .zp (rm .dec), .f2 .smb4,
    .f1 .iny, .imm .cmp, .f1 .dex, .f1 .wai, .abs (rd .cpy), .abs (rd .cmp), .abs (rm .dec), .f3r .bbs4],
   [.f2 .bne, .izy (rd .cmp), .izp (rd .cmp), .unassigned, .unassigned, .zpx (rd .cmp), .zpx (rm .dec), .f2 .smb5,
    .f1 .cld, .aby (rd .cmp), .f1 .phx, .f1 .stp, .unassigned, .abx (rd .cmp), .abx (rm .dec), .f3r .bbs5],
   [.imm .cpx, .izx (rd .sbc), .unassigned, .unassigned, .zp (rd .cpx), .zp (rd .sbc), .zp (rm .inc), .f2 .smb6,
    .f1 .inx, .imm .sbc, .f1 .nop, .unassigned, .abs (rd .cpx), .abs (rd .sbc), .abs (rm .inc), .f3r .bbs6],
   [.f2 .beq, .izy (rd .sbc), .izp (rd .sbc), .unassigned, .unassigned, .zpx (rd .sbc), .zpx (rm .inc), .f2 .smb7,
    .f1 .sed, .aby (rd .sbc), .f1 .plx, .unassigned, .unassigned, .abx (rd .sbc), .abx (rm .inc), .f3r .bbs7]]

/-- The opcode matrix (30_encoding.md R75). -/
def opcodeMatrix : List (List Cell) :=
  opcodeRows0to3 ++ opcodeRows4to7 ++ opcodeRows8toB ++ opcodeRowsCtoF

/-- The cell of an opcode byte. Each byte has exactly one (30_encoding.md R79), since it is the cell's position. -/
def cellOf (op : Byte) : Cell :=
  (opcodeMatrix.getD (op.toNat / 16) []).getD (op.toNat % 16) .unassigned

/-- The operand bytes a cell needs; the opcode alone tells the length (30_encoding.md R78). -/
def Cell.operandBytes : Cell → Nat
  | .unassigned | .f1 _ => 0
  | .f2 _ => 1
  | .f3 _ | .f3r _ => 2

/-- The instruction of opcode `op` whose next bytes are `b1` and `b2`. A shorter format ignores the bytes it does not
have (30_encoding.md R72). An unassigned byte gives the term whose execution is the decode failure. -/
def Cell.instr (c : Cell) (op b1 b2 : Byte) : Instr :=
  match c with
  | .unassigned => .unassigned op
  | .f1 i => i
  | .f2 mk => mk b1
  | .f3 mk => mk (wordOf b1 b2)
  | .f3r mk => mk b1 b2

/-- Why a byte string is no instruction. -/
inductive DecodeError where
  /-- No byte at all. -/
  | noOpcode
  /-- The opcode's operand bytes do not all follow. -/
  | truncated (op : Byte)
deriving DecidableEq, Repr

/-- The instruction a cell reads with the bytes after its opcode `op`, and the bytes left over. -/
def Cell.read (c : Cell) (op : Byte) (rest : List Byte) : Except DecodeError (Instr × List Byte) :=
  match c, rest with
  | .unassigned, rest => .ok (.unassigned op, rest)
  | .f1 i, rest => .ok (i, rest)
  | .f2 mk, d :: rest => .ok (mk d, rest)
  | .f3 mk, lo :: hi :: rest => .ok (mk (wordOf lo hi), rest)
  | .f3r mk, z :: r :: rest => .ok (mk z r, rest)
  | .f2 _, [] | .f3 _, _ | .f3r _, _ => .error (.truncated op)

/-- The instruction at the head of a byte string, and the bytes after it (30_encoding.md R71). -/
def decode : List Byte → Except DecodeError (Instr × List Byte)
  | [] => .error .noOpcode
  | op :: rest => (cellOf op).read op rest

/-- The bytes of a number whose bit 0 is bit 0 of the first byte: as many as the longest instruction has. The bits
from `nbits` up are 0. -/
def tableBytes (nbits w : Nat) : List Byte :=
  let v := w % 2 ^ nbits
  [BitVec.ofNat 8 v, BitVec.ofNat 8 (v / 256), BitVec.ofNat 8 (v / 65536)]

/-- The instruction the decoder reads from a row of spec/opcode_table.json with the bits `w`. -/
def decodeTableWord (nbits w : Nat) : Option Instr :=
  match decode (tableBytes nbits w) with
  | .ok (i, _) => some i
  | .error _ => none

/-! ## The encoder -/

/-- The opcode byte that a list of pairs of mode and byte gives a mode. -/
def opcodeFor (rows : List (Mode × Byte)) (m : Mode) : Option Byte :=
  match rows with
  | [] => none
  | (k, op) :: rest => if k = m then some op else opcodeFor rest m

/-- The opcode byte of an instruction, from the list of 30_encoding.md R76; none where R76 does not give the mnemonic
that mode. -/
def Instr.opcode : Instr → Option Byte
  | .adc o => opcodeFor [(.izx, 0x61), (.zp, 0x65), (.imm, 0x69), (.abs, 0x6D), (.izy, 0x71), (.izp, 0x72), (.zpx, 0x75), (.aby, 0x79), (.abx, 0x7D)] o.mode
  | .and o => opcodeFor [(.izx, 0x21), (.zp, 0x25), (.imm, 0x29), (.abs, 0x2D), (.izy, 0x31), (.izp, 0x32), (.zpx, 0x35), (.aby, 0x39), (.abx, 0x3D)] o.mode
  | .asl o => opcodeFor [(.zp, 0x06), (.acc, 0x0A), (.abs, 0x0E), (.zpx, 0x16), (.abx, 0x1E)] o.mode
  | .bbr0 _ _ => some 0x0F | .bbr1 _ _ => some 0x1F | .bbr2 _ _ => some 0x2F | .bbr3 _ _ => some 0x3F
  | .bbr4 _ _ => some 0x4F | .bbr5 _ _ => some 0x5F | .bbr6 _ _ => some 0x6F | .bbr7 _ _ => some 0x7F
  | .bbs0 _ _ => some 0x8F | .bbs1 _ _ => some 0x9F | .bbs2 _ _ => some 0xAF | .bbs3 _ _ => some 0xBF
  | .bbs4 _ _ => some 0xCF | .bbs5 _ _ => some 0xDF | .bbs6 _ _ => some 0xEF | .bbs7 _ _ => some 0xFF
  | .bcc _ => some 0x90
  | .bcs _ => some 0xB0
  | .beq _ => some 0xF0
  | .bit o => opcodeFor [(.zp, 0x24), (.abs, 0x2C), (.zpx, 0x34), (.abx, 0x3C), (.imm, 0x89)] o.mode
  | .bmi _ => some 0x30
  | .bne _ => some 0xD0
  | .bpl _ => some 0x10
  | .bra _ => some 0x80
  | .brk => some 0x00
  | .bvc _ => some 0x50
  | .bvs _ => some 0x70
  | .clc => some 0x18
  | .cld => some 0xD8
  | .cli => some 0x58
  | .clv => some 0xB8
  | .cmp o => opcodeFor [(.izx, 0xC1), (.zp, 0xC5), (.imm, 0xC9), (.abs, 0xCD), (.izy, 0xD1), (.izp, 0xD2), (.zpx, 0xD5), (.aby, 0xD9), (.abx, 0xDD)] o.mode
  | .cpx o => opcodeFor [(.imm, 0xE0), (.zp, 0xE4), (.abs, 0xEC)] o.mode
  | .cpy o => opcodeFor [(.imm, 0xC0), (.zp, 0xC4), (.abs, 0xCC)] o.mode
  | .dec o => opcodeFor [(.acc, 0x3A), (.zp, 0xC6), (.abs, 0xCE), (.zpx, 0xD6), (.abx, 0xDE)] o.mode
  | .dex => some 0xCA
  | .dey => some 0x88
  | .eor o => opcodeFor [(.izx, 0x41), (.zp, 0x45), (.imm, 0x49), (.abs, 0x4D), (.izy, 0x51), (.izp, 0x52), (.zpx, 0x55), (.aby, 0x59), (.abx, 0x5D)] o.mode
  | .inc o => opcodeFor [(.acc, 0x1A), (.zp, 0xE6), (.abs, 0xEE), (.zpx, 0xF6), (.abx, 0xFE)] o.mode
  | .inx => some 0xE8
  | .iny => some 0xC8
  | .jmp t => opcodeFor [(.abs, 0x4C), (.ind, 0x6C), (.iax, 0x7C)] t.mode
  | .jsr _ => some 0x20
  | .lda o => opcodeFor [(.izx, 0xA1), (.zp, 0xA5), (.imm, 0xA9), (.abs, 0xAD), (.izy, 0xB1), (.izp, 0xB2), (.zpx, 0xB5), (.aby, 0xB9), (.abx, 0xBD)] o.mode
  | .ldx o => opcodeFor [(.imm, 0xA2), (.zp, 0xA6), (.abs, 0xAE), (.zpy, 0xB6), (.aby, 0xBE)] o.mode
  | .ldy o => opcodeFor [(.imm, 0xA0), (.zp, 0xA4), (.abs, 0xAC), (.zpx, 0xB4), (.abx, 0xBC)] o.mode
  | .lsr o => opcodeFor [(.zp, 0x46), (.acc, 0x4A), (.abs, 0x4E), (.zpx, 0x56), (.abx, 0x5E)] o.mode
  | .nop => some 0xEA
  | .ora o => opcodeFor [(.izx, 0x01), (.zp, 0x05), (.imm, 0x09), (.abs, 0x0D), (.izy, 0x11), (.izp, 0x12), (.zpx, 0x15), (.aby, 0x19), (.abx, 0x1D)] o.mode
  | .pha => some 0x48
  | .php => some 0x08
  | .phx => some 0xDA
  | .phy => some 0x5A
  | .pla => some 0x68
  | .plp => some 0x28
  | .plx => some 0xFA
  | .ply => some 0x7A
  | .rmb0 _ => some 0x07 | .rmb1 _ => some 0x17 | .rmb2 _ => some 0x27 | .rmb3 _ => some 0x37
  | .rmb4 _ => some 0x47 | .rmb5 _ => some 0x57 | .rmb6 _ => some 0x67 | .rmb7 _ => some 0x77
  | .rol o => opcodeFor [(.zp, 0x26), (.acc, 0x2A), (.abs, 0x2E), (.zpx, 0x36), (.abx, 0x3E)] o.mode
  | .ror o => opcodeFor [(.zp, 0x66), (.acc, 0x6A), (.abs, 0x6E), (.zpx, 0x76), (.abx, 0x7E)] o.mode
  | .rti => some 0x40
  | .rts => some 0x60
  | .sbc o => opcodeFor [(.izx, 0xE1), (.zp, 0xE5), (.imm, 0xE9), (.abs, 0xED), (.izy, 0xF1), (.izp, 0xF2), (.zpx, 0xF5), (.aby, 0xF9), (.abx, 0xFD)] o.mode
  | .sec => some 0x38
  | .sed => some 0xF8
  | .sei => some 0x78
  | .smb0 _ => some 0x87 | .smb1 _ => some 0x97 | .smb2 _ => some 0xA7 | .smb3 _ => some 0xB7
  | .smb4 _ => some 0xC7 | .smb5 _ => some 0xD7 | .smb6 _ => some 0xE7 | .smb7 _ => some 0xF7
  | .sta m => opcodeFor [(.izx, 0x81), (.zp, 0x85), (.abs, 0x8D), (.izy, 0x91), (.izp, 0x92), (.zpx, 0x95), (.aby, 0x99), (.abx, 0x9D)] m.mode
  | .stp => some 0xDB
  | .stx m => opcodeFor [(.zp, 0x86), (.abs, 0x8E), (.zpy, 0x96)] m.mode
  | .sty m => opcodeFor [(.zp, 0x84), (.abs, 0x8C), (.zpx, 0x94)] m.mode
  | .stz m => opcodeFor [(.zp, 0x64), (.zpx, 0x74), (.abs, 0x9C), (.abx, 0x9E)] m.mode
  | .tax => some 0xAA
  | .tay => some 0xA8
  | .trb m => opcodeFor [(.zp, 0x14), (.abs, 0x1C)] m.mode
  | .tsb m => opcodeFor [(.zp, 0x04), (.abs, 0x0C)] m.mode
  | .tsx => some 0xBA
  | .txa => some 0x8A
  | .txs => some 0x9A
  | .tya => some 0x98
  | .wai => some 0xCB
  | .unassigned op => if unassignedBytes.contains op then some op else none

/-- The bytes of an operand word: low byte first (20_memory.md R52). -/
def wordBytes (w : Word) : List Byte := [loByte w, hiByte w]

def MemOperand.bytes : MemOperand → List Byte
  | .abs w | .abx w | .aby w => wordBytes w
  | .zp z | .zpx z | .zpy z | .izx z | .izp z | .izy z => [z]

def Src.bytes : Src → List Byte
  | .imm v => [v]
  | .mem m => m.bytes

def Rmw.bytes : Rmw → List Byte
  | .acc => []
  | .mem m => m.bytes

def Target.bytes : Target → List Byte
  | .abs w | .ind w | .iax w => wordBytes w

/-- The operand bytes of an instruction, in address order (30_encoding.md R70, R71). -/
def Instr.operands : Instr → List Byte
  | .lda o | .ldx o | .ldy o | .adc o | .sbc o | .cmp o | .cpx o | .cpy o | .and o | .ora o | .eor o | .bit o => o.bytes
  | .sta m | .stx m | .sty m | .stz m | .trb m | .tsb m => m.bytes
  | .inc o | .dec o | .asl o | .lsr o | .rol o | .ror o => o.bytes
  | .rmb0 z | .rmb1 z | .rmb2 z | .rmb3 z | .rmb4 z | .rmb5 z | .rmb6 z | .rmb7 z => [z]
  | .smb0 z | .smb1 z | .smb2 z | .smb3 z | .smb4 z | .smb5 z | .smb6 z | .smb7 z => [z]
  | .bcc r | .bcs r | .beq r | .bne r | .bmi r | .bpl r | .bvc r | .bvs r | .bra r => [r]
  | .bbr0 z r | .bbr1 z r | .bbr2 z r | .bbr3 z r | .bbr4 z r | .bbr5 z r | .bbr6 z r | .bbr7 z r => [z, r]
  | .bbs0 z r | .bbs1 z r | .bbs2 z r | .bbs3 z r | .bbs4 z r | .bbs5 z r | .bbs6 z r | .bbs7 z r => [z, r]
  | .jmp t => t.bytes
  | .jsr w => wordBytes w
  | .tax | .tay | .txa | .tya | .tsx | .txs | .inx | .iny | .dex | .dey | .rts
  | .pha | .php | .phx | .phy | .pla | .plp | .plx | .ply
  | .clc | .cld | .cli | .clv | .sec | .sed | .sei | .nop | .brk | .rti | .wai | .stp
  | .unassigned _ => []

/-- The bytes of an instruction; none for a term the matrix does not encode. -/
def encode (i : Instr) : Option (List Byte) :=
  i.opcode.map fun op => op :: i.operands

end Sys2Proof
end

