-- ==== Sys2Proof/Machine/State.lean ====
section
/-! DEFINITION. The state of the machine as plain data (10_state.md), the reasons a step can stop, and reset. -/

namespace Sys2Proof.Machine

/-- The seven flags (10_state.md R25). Bit 5 of the status byte has no storage (R26). -/
structure Flags where
  /-- Negative -/
  n : Bool
  /-- oVerflow -/
  v : Bool
  /-- Break -/
  b : Bool
  /-- Decimal -/
  d : Bool
  /-- Interrupt-disable -/
  i : Bool
  /-- Zero -/
  z : Bool
  /-- Carry -/
  c : Bool
deriving DecidableEq, Repr

/-- The values of HALT (10_state.md R29). -/
inductive RunState where
  | run | wait | stop
deriving DecidableEq, Repr

/-- The `k` of `Halted(k)`: WAIT or STOP (00_scope.md R7). -/
inductive HaltKind where
  | wait | stop
deriving DecidableEq, Repr

/-- The value of HALT that `halt(k)` stores (60_exceptions.md R279). -/
def HaltKind.runState : HaltKind → RunState
  | .wait => .wait
  | .stop => .stop

/-- What the result port (00_scope.md R9) shows: the outcome of the latest step (R7), or nothing since reset. -/
inductive Result where
  | nothing
  | cycles (n : Nat)
  | halted (k : HaltKind)
  | decodeError (op : Byte)
deriving DecidableEq, Repr

/-- Memory: the bytes that differ from `Config.unlistedByte`, addresses strictly rising (`Memory.wf`). -/
abbrev Memory := List Host.Cell

/-- The whole state: the registers, flags and HALT of 10_state.md R20 to R29, the memory of 20_memory.md R50, and the
result port (log entry 3). -/
structure State where
  a : Byte
  x : Byte
  y : Byte
  sp : Byte
  pc : Word
  flags : Flags
  halt : RunState
  mem : Memory
  result : Result
deriving DecidableEq, Repr

/-- Why the machine stops with a fault. -/
inductive Fault where
  /-- Raised by the execution of an unassigned opcode byte: the outcome `DecodeError(op)` of 60_exceptions.md R271. It
  carries the state after the step, from which the host may resume. Safe: the physical part goes on there (log entry 4). -/
  | decodeError (op : Byte) (after : State)
deriving DecidableEq, Repr

/-- Why the model gives no meaning. -/
inductive Refusal where
  /-- Raised by an arm of `exec` whose instruction has no meaning yet: no arm of this model. Safe. -/
  | notModelled (mnemonic : String)
deriving DecidableEq, Repr

/-- The outcome of a meaning. -/
abbrev Out := Host.Outcome State Fault Refusal

/-- All flags 0. -/
def Flags.cleared : Flags := ⟨false, false, false, false, false, false, false⟩

/-- The state after `Reset` with `SP_RESET` = `p`, over the memory `m` that reset leaves as it is
(10_state.md R31, 70_reset_and_hazards.md R300). -/
def State.resetWith (p : Byte) (m : Memory) : State where
  a := 0x00
  x := 0x00
  y := 0x00
  sp := p
  pc := 0x0000
  flags := .cleared
  halt := .run
  mem := m
  result := .nothing

/-- The machine right after reset: `SP_RESET` as `Config.spReset` names it (log entry 1), nothing written to memory. -/
def State.reset : State := .resetWith Config.spReset []

end Sys2Proof.Machine
end

