-- ==== Sys2Proof/Machine/Cycles.lean ====
section
/-! DEFINITION. The cycle count of a step (70_reset_and_hazards.md R304 to R308; log entry 10). -/

namespace Sys2Proof.Machine

/-- `BASE_CYCLES`, row = opcode[7:4], column = opcode[3:0]; 0 where the table of 70_reset_and_hazards.md R305 has `--`. -/
def baseCycleTable : List (List Nat) :=
  [[7, 6, 0, 0, 5, 3, 5, 5, 3, 2, 2, 0, 6, 4, 6, 5],
   [2, 5, 5, 0, 5, 4, 6, 5, 2, 4, 2, 0, 6, 4, 6, 5],
   [6, 6, 0, 0, 3, 3, 5, 5, 4, 2, 2, 0, 4, 4, 6, 5],
   [2, 5, 5, 0, 4, 4, 6, 5, 2, 4, 2, 0, 4, 4, 6, 5],
   [6, 6, 0, 0, 0, 3, 5, 5, 3, 2, 2, 0, 3, 4, 6, 5],
   [2, 5, 5, 0, 0, 4, 6, 5, 2, 4, 3, 0, 0, 4, 6, 5],
   [6, 6, 0, 0, 3, 3, 5, 5, 4, 2, 2, 0, 6, 4, 6, 5],
   [2, 5, 5, 0, 4, 4, 6, 5, 2, 4, 4, 0, 6, 4, 6, 5],
   [2, 6, 0, 0, 3, 3, 3, 5, 2, 2, 2, 0, 4, 4, 4, 5],
   [2, 6, 5, 0, 4, 4, 4, 5, 2, 5, 2, 0, 4, 5, 5, 5],
   [2, 6, 2, 0, 3, 3, 3, 5, 2, 2, 2, 0, 4, 4, 4, 5],
   [2, 5, 5, 0, 4, 4, 4, 5, 2, 4, 2, 0, 4, 4, 4, 5],
   [2, 6, 0, 0, 3, 3, 5, 5, 2, 2, 2, 3, 4, 4, 6, 5],
   [2, 5, 5, 0, 0, 4, 6, 5, 2, 4, 3, 3, 0, 4, 7, 5],
   [2, 6, 0, 0, 3, 3, 5, 5, 2, 2, 2, 0, 4, 4, 6, 5],
   [2, 5, 5, 0, 0, 4, 6, 5, 2, 4, 4, 0, 0, 4, 7, 5]]

/-- The base count of an opcode byte. -/
def baseCyclesOf (op : Byte) : Nat :=
  (baseCycleTable.getD (op.toNat / 16) []).getD (op.toNat % 16) 0

/-- The base count of an instruction; 0 for a term without an opcode, which no step meets. -/
def baseCycles (i : Instr) : Nat :=
  match i.opcode with
  | some op => baseCyclesOf op
  | none => 0

/-- `PAGEX`, the opcodes that earn the page-cross cycle (70_reset_and_hazards.md R306). -/
def pagex : List Byte :=
  [0x1D, 0x19, 0x11, 0x3D, 0x39, 0x31, 0x5D, 0x59, 0x51, 0x7D, 0x79, 0x71, 0xFD, 0xF9, 0xF1, 0xDD, 0xD9, 0xD1,
   0xBD, 0xB9, 0xB1, 0xBE, 0xBC, 0x3C, 0x1E, 0x3E, 0x5E, 0x7E]

/-- Whether an instruction's opcode is in `PAGEX`. -/
def chargesPageCross (i : Instr) : Bool :=
  match i.opcode with
  | some op => pagex.contains op
  | none => false

/-- The page-cross cycle (70_reset_and_hazards.md R306). -/
def pageExtra (i : Instr) (crossed : Bool) : Nat := if chargesPageCross i && crossed then 1 else 0

/-- The decimal-mode cycle of ADC and SBC, for D at the start of the step (70_reset_and_hazards.md R307). -/
def decimalExtra (d : Bool) : Nat := if d then 1 else 0

end Sys2Proof.Machine
end

