-- ==== Sys2Proof/Machine/Flags.lean ====
section
/-! DEFINITION. The status byte and every flag computation: SetNZ, the adders, compares, shifts and bit tests. -/

namespace Sys2Proof.Machine

/-- The composite status byte `P`, `N V 1 B D I Z C` (10_state.md R26). -/
def Flags.toByte (f : Flags) : Byte :=
  BitVec.ofBool f.n ++ BitVec.ofBool f.v ++ BitVec.ofBool true ++ BitVec.ofBool f.b
    ++ BitVec.ofBool f.d ++ BitVec.ofBool f.i ++ BitVec.ofBool f.z ++ BitVec.ofBool f.c

/-- Loading the flags from a byte; bit 5 is discarded (10_state.md R26). -/
def Flags.ofByte (b : Byte) : Flags where
  n := b.getLsbD 7
  v := b.getLsbD 6
  b := b.getLsbD 4
  d := b.getLsbD 3
  i := b.getLsbD 2
  z := b.getLsbD 1
  c := b.getLsbD 0

/-- `SetNZ(v)` (10_state.md R27). -/
def Flags.setNZ (f : Flags) (v : Byte) : Flags := { f with n := v.getLsbD 7, z := v == 0 }

/-- What an adder gives: the byte, the carry and the signed overflow. -/
structure Sum where
  r : Byte
  c : Bool
  v : Bool
deriving DecidableEq, Repr

/-- `AddBin` (42_arithmetic.md R142). -/
def addBin (a m : Byte) (c : Bool) : Sum :=
  let s := a.toNat + m.toNat + c.toNat
  let r : Byte := BitVec.ofNat 8 s
  { r := r, c := decide (256 ≤ s), v := (~~~(a ^^^ m) &&& (a ^^^ r) &&& 0x80) != 0 }

/-- `AddDec` (42_arithmetic.md R143; log entry 11). -/
def addDec (a m : Byte) (c : Bool) : Sum :=
  let al0 := (a &&& 0x0F).toNat + (m &&& 0x0F).toNat + c.toNat
  let al := if 0x0A ≤ al0 then (al0 + 0x06) % 16 + 0x10 else al0
  let t0 := (a &&& 0xF0).toNat + (m &&& 0xF0).toNat + al
  let v := (~~~(a ^^^ m) &&& (a ^^^ BitVec.ofNat 8 t0) &&& 0x80) != 0
  let t := if 0xA0 ≤ t0 then t0 + 0x60 else t0
  { r := BitVec.ofNat 8 t, c := decide (0x100 ≤ t), v := v }

/-- `SubBin`: the addition of the complement (42_arithmetic.md R145). -/
def subBin (a m : Byte) (c : Bool) : Sum := addBin a (m ^^^ 0xFF) c

/-- `SubDec` (42_arithmetic.md R146; log entry 11). -/
def subDec (a m : Byte) (c : Bool) : Sum :=
  let bin := subBin a m c
  let al : Int := (a &&& 0x0F).toNat - (m &&& 0x0F).toNat + c.toNat - 1
  let t0 : Int := a.toNat - m.toNat + c.toNat - 1
  let t1 := if t0 < 0 then t0 - 0x60 else t0
  let t := if al < 0 then t1 - 0x06 else t1
  { bin with r := BitVec.ofInt 8 t }

/-- The sum ADC stores: D selects the algorithm (42_arithmetic.md R141). -/
def adcSum (f : Flags) (a m : Byte) : Sum := if f.d then addDec a m f.c else addBin a m f.c

/-- The difference SBC stores: D selects the algorithm (42_arithmetic.md R144). -/
def sbcSum (f : Flags) (a m : Byte) : Sum := if f.d then subDec a m f.c else subBin a m f.c

/-- The flags after ADC or SBC (42_arithmetic.md R141, R144). -/
def Flags.afterSum (f : Flags) (s : Sum) : Flags := { f.setNZ s.r with c := s.c, v := s.v }

/-- The flags after comparing `reg` with `m`: of `reg + (m ^ 0xFF) + 1`, always binary (42_arithmetic.md R147). -/
def Flags.compare (f : Flags) (reg m : Byte) : Flags :=
  let s := reg.toNat + (m ^^^ 0xFF).toNat + 1
  { f.setNZ (BitVec.ofNat 8 s) with c := decide (256 ≤ s) }

/-- BIT in every mode but immediate (43_logic_shift_bit.md R174). -/
def Flags.bitMemory (f : Flags) (a m : Byte) : Flags :=
  { f with z := a &&& m == 0, n := m.getLsbD 7, v := m.getLsbD 6 }

/-- Z of TRB, TSB and of BIT immediate (43_logic_shift_bit.md R174, R179, R180). -/
def Flags.testMask (f : Flags) (a m : Byte) : Flags := { f with z := a &&& m == 0 }

/-- INC (42_arithmetic.md R150): the byte and the flags. -/
def incByte (m : Byte) (f : Flags) : Byte × Flags := (m + 1, f.setNZ (m + 1))

/-- DEC (42_arithmetic.md R151). -/
def decByte (m : Byte) (f : Flags) : Byte × Flags := (m - 1, f.setNZ (m - 1))

/-- ASL (43_logic_shift_bit.md R175). -/
def aslByte (m : Byte) (f : Flags) : Byte × Flags :=
  let r := m <<< 1
  (r, { f.setNZ r with c := m.getLsbD 7 })

/-- LSR (43_logic_shift_bit.md R176). -/
def lsrByte (m : Byte) (f : Flags) : Byte × Flags :=
  let r := m >>> 1
  (r, { f.setNZ r with c := m.getLsbD 0 })

/-- ROL: the old C enters bit 0 (43_logic_shift_bit.md R177). -/
def rolByte (m : Byte) (f : Flags) : Byte × Flags :=
  let r := m <<< 1 ||| (BitVec.ofBool f.c).setWidth 8
  (r, { f.setNZ r with c := m.getLsbD 7 })

/-- ROR: the old C enters bit 7 (43_logic_shift_bit.md R178). -/
def rorByte (m : Byte) (f : Flags) : Byte × Flags :=
  let r := m >>> 1 ||| (BitVec.ofBool f.c).setWidth 8 <<< 7
  (r, { f.setNZ r with c := m.getLsbD 0 })

/-- TRB: Z tests before the change (43_logic_shift_bit.md R179). -/
def trbByte (a m : Byte) (f : Flags) : Byte × Flags := (m &&& (a ^^^ 0xFF), f.testMask a m)

/-- TSB: Z tests before the change (43_logic_shift_bit.md R180). -/
def tsbByte (a m : Byte) (f : Flags) : Byte × Flags := (m ||| a, f.testMask a m)

/-- The byte `1 << b`. -/
def bitMask (b : Nat) : Byte := (1 : Byte) <<< b

/-- RMBb (43_logic_shift_bit.md R181). -/
def rmbByte (b : Nat) (m : Byte) (f : Flags) : Byte × Flags := (m &&& (bitMask b ^^^ 0xFF), f)

/-- SMBb (43_logic_shift_bit.md R182). -/
def smbByte (b : Nat) (m : Byte) (f : Flags) : Byte × Flags := (m ||| bitMask b, f)

end Sys2Proof.Machine
end

