-- ==== Sys2Proof/Machine/Ops.lean ====
section
/-! DEFINITION. The named operations over memory and registers that every meaning is written with: the primitives of
00_scope.md R6, the stack, taking the BRK trap and returning from it, halting, and completing a step. -/

namespace Sys2Proof.Machine

/-! ## Memory -/

/-- The byte listed at an address, or what an unlisted address reads as. -/
def Memory.lookup (m : Memory) (k : Nat) : Byte :=
  match m with
  | [] => Config.unlistedByte
  | (j, w) :: rest => if j = k then w else Memory.lookup rest k

/-- Put a cell before the first cell with a higher address. -/
def Memory.insertCell (m : Memory) (k : Nat) (v : Byte) : Memory :=
  match m with
  | [] => [(k, v)]
  | (j, w) :: rest => if k < j then (k, v) :: (j, w) :: rest else (j, w) :: Memory.insertCell rest k v

/-- `MemRead(addr, 1)` (20_memory.md R50, R65): every address answers. -/
def Memory.read (m : Memory) (a : Word) : Byte := m.lookup a.toNat

/-- `MemWrite(addr, 1, v)` (20_memory.md R50, R65). The cell of the address is taken out, and put back with the new
byte unless that is what an unlisted address reads as. -/
def Memory.write (m : Memory) (a : Word) (v : Byte) : Memory :=
  let others : Memory := m.filter fun c => c.1 != a.toNat
  if v = Config.unlistedByte then others else others.insertCell a.toNat v

/-- Every cell's address is at least `low` and rises strictly, is an address of the machine, and its byte is not the
unlisted one. -/
def Memory.wfFrom (low : Nat) (m : Memory) : Bool :=
  match m with
  | [] => true
  | (k, v) :: rest => decide (low ≤ k) && decide (k < 65536) && v != Config.unlistedByte && Memory.wfFrom (k + 1) rest

/-- The canonical form of memory. -/
def Memory.wf (m : Memory) : Bool := m.wfFrom 0

/-- `Read16(addr)`: the second address wraps modulo 2^16 (20_memory.md R55). -/
def Memory.read16 (m : Memory) (a : Word) : Word := wordOf (m.read a) (m.read (a + 1))

/-- `Read16ZP(zp)`: both bytes come from page zero (20_memory.md R56). -/
def Memory.read16ZP (m : Memory) (z : Byte) : Word := wordOf (m.read (zext16 z)) (m.read (zext16 (z + 1)))

/-! ## Registers -/

def State.withA (s : State) (v : Byte) : State := { s with a := v }
def State.withX (s : State) (v : Byte) : State := { s with x := v }
def State.withY (s : State) (v : Byte) : State := { s with y := v }
def State.withSP (s : State) (v : Byte) : State := { s with sp := v }
def State.withPC (s : State) (v : Word) : State := { s with pc := v }
def State.withFlags (s : State) (f : Flags) : State := { s with flags := f }
def State.withHalt (s : State) (k : RunState) : State := { s with halt := k }
def State.withMem (s : State) (m : Memory) : State := { s with mem := m }
def State.withResult (s : State) (r : Result) : State := { s with result := r }

/-- A write of A that tests the value, as every write of A does (10_state.md R20, R27). -/
def State.loadA (s : State) (v : Byte) : State := (s.withA v).withFlags (s.flags.setNZ v)

/-- A write of X that tests the value (10_state.md R21, R27). -/
def State.loadX (s : State) (v : Byte) : State := (s.withX v).withFlags (s.flags.setNZ v)

/-- A write of Y that tests the value (10_state.md R22, R27). -/
def State.loadY (s : State) (v : Byte) : State := (s.withY v).withFlags (s.flags.setNZ v)

/-- PC past the bytes of an instruction, as it is when the operation's own semantics run (10_state.md R23). -/
def State.past (s : State) (i : Instr) : State := s.withPC (s.pc + BitVec.ofNat 16 i.length)

/-- A byte stored to memory. -/
def State.store (s : State) (a : Word) (v : Byte) : State := s.withMem (s.mem.write a v)

/-! ## The stack -/

/-- The address `0x0100 + SP` (10_state.md R24; log entry 15). -/
def stackAddress (sp : Byte) : Word := 0x0100 + zext16 sp

/-- `Push(v)` (20_memory.md R57). -/
def State.push (s : State) (v : Byte) : State := (s.store (stackAddress s.sp) v).withSP (s.sp - 1)

/-- What `Pull()` returns: the byte at the incremented SP (20_memory.md R58). -/
def State.top (s : State) : Byte := s.mem.read (stackAddress (s.sp + 1))

/-- What `Pull()` does to the state (20_memory.md R58). -/
def State.pop (s : State) : State := s.withSP (s.sp + 1)

/-- The two bytes of a return address, high byte first (44_branch_jump.md R214). -/
def State.pushWord (s : State) (w : Word) : State := (s.push (hiByte w)).push (loByte w)

/-- The word two pulls give, low byte first (44_branch_jump.md R215). -/
def State.topWord (s : State) : Word := wordOf s.top s.pop.top

/-! ## Taking the trap and returning -/

/-- The fixed BRK vector (60_exceptions.md R272; log entry 12). -/
def brkVector : Word := 0xFFFE

/-- The flags BRK stacks: B as set, I and D as before (60_exceptions.md R272). -/
def Flags.stackedByBrk (f : Flags) : Flags := { f with b := true }

/-- The flags after BRK (60_exceptions.md R272). -/
def Flags.afterBrk (f : Flags) : Flags := { f with b := true, i := true, d := false }

/-- `TrapEntry_BRK()`, entered with PC past the opcode (60_exceptions.md R272). -/
def State.trapEntry (s : State) : State :=
  let pushed := (s.pushWord (s.pc + 1)).push s.flags.stackedByBrk.toByte
  (pushed.withFlags s.flags.afterBrk).withPC (pushed.mem.read16 brkVector)

/-- `TrapReturn()` (60_exceptions.md R275). -/
def State.trapReturn (s : State) : State :=
  let p := s.pop
  (p.pop.pop.withFlags (.ofByte s.top)).withPC p.topWord

/-! ## Ending a step -/

/-- The step ends with `Cycles(n)`, `n` the base count and the extras (70_reset_and_hazards.md R304). -/
def complete (i : Instr) (extra : Nat) (t : State) : Out := .next (t.withResult (.cycles (baseCycles i + extra)))

/-- `halt(k)`: HALT takes `k` and the step ends with `Halted(k)` (60_exceptions.md R279). -/
def haltWith (k : HaltKind) (t : State) : Out := .next ((t.withHalt k.runState).withResult (.halted k))

/-- A step taken while HALT is `k`: nothing but the report (30_encoding.md R80; log entry 5). -/
def stayHalted (k : HaltKind) (s : State) : Out := .next (s.withResult (.halted k))

/-- `raise DecodeFailure(op)`, with PC past the byte (60_exceptions.md R271; log entry 4). -/
def decodeFailure (op : Byte) (t : State) : Out := .fault (.decodeError op (t.withResult (.decodeError op)))

end Sys2Proof.Machine
end

