-- ==== Sys2Proof/Machine/Operands.lean ====
section
/-! DEFINITION. The addressing-mode resolvers (40_addressing_modes.md) and the shapes of instruction that use them. -/

namespace Sys2Proof.Machine

/-- `pagecross(base, ea)` (40_addressing_modes.md R110). -/
def pagecross (base ea : Word) : Bool := hiByte base != hiByte ea

/-- The handle `Mem(ea, crossed)` (40_addressing_modes.md R90). -/
structure MemHandle where
  ea : Word
  crossed : Bool
deriving DecidableEq, Repr

/-- An address with no page-cross bit. -/
def plainHandle (ea : Word) : MemHandle := { ea := ea, crossed := false }

/-- The sum of a base and an index, modulo 2^16 (40_addressing_modes.md R92, R93, R107). -/
def indexedHandle (base : Word) (index : Byte) : MemHandle :=
  let ea := base + zext16 index
  { ea := ea, crossed := pagecross base ea }

/-- The resolvers of the memory modes (40_addressing_modes.md R91 to R93, R102 to R107). -/
def resolve (m : MemOperand) (s : State) : MemHandle :=
  match m with
  | .abs w => plainHandle w
  | .abx w => indexedHandle w s.x
  | .aby w => indexedHandle w s.y
  | .zp z => plainHandle (zext16 z)
  | .zpx z => plainHandle (zext16 (z + s.x))
  | .zpy z => plainHandle (zext16 (z + s.y))
  | .izx z => plainHandle (s.mem.read16ZP (z + s.x))
  | .izp z => plainHandle (s.mem.read16ZP z)
  | .izy z => indexedHandle (s.mem.read16ZP z) s.y

/-- `h.read()` of a read operand (40_addressing_modes.md R90, R97). -/
def readSrc (o : Src) (s : State) : Byte :=
  match o with
  | .imm v => v
  | .mem m => s.mem.read (resolve m s).ea

/-- The page-cross bit of a read operand's handle. -/
def srcCrossed (o : Src) (s : State) : Bool :=
  match o with
  | .imm _ => false
  | .mem m => (resolve m s).crossed

/-- `h.read()` of a read-modify-write operand (40_addressing_modes.md R90, R96). -/
def readRmw (o : Rmw) (s : State) : Byte :=
  match o with
  | .acc => s.a
  | .mem m => s.mem.read (resolve m s).ea

/-- The page-cross bit of a read-modify-write operand's handle. -/
def rmwCrossed (o : Rmw) (s : State) : Bool :=
  match o with
  | .acc => false
  | .mem m => (resolve m s).crossed

/-- `h.write(v)` of a handle resolved in `s`, on the state `t` (40_addressing_modes.md R90, R96, R111). -/
def writeRmw (o : Rmw) (s : State) (v : Byte) (t : State) : State :=
  match o with
  | .acc => t.withA v
  | .mem m => t.store (resolve m s).ea v

/-- The effective address of JMP (40_addressing_modes.md R91, R94, R95). -/
def resolveTarget (g : Target) (s : State) : Word :=
  match g with
  | .abs w => w
  | .ind w => s.mem.read16 w
  | .iax w => s.mem.read16 (w + zext16 s.x)

/-! ## Shapes of instruction -/

/-- Read an operand, then act on the state whose PC is past the instruction. `extra` is the decimal cycle, where one
can be earned. -/
def withOperand (i : Instr) (o : Src) (extra : Nat) (act : Byte → State → State) (s : State) : Out :=
  complete i (pageExtra i (srcCrossed o s) + extra) (act (readSrc o s) (s.past i))

/-- Store a byte; the target is not read (20_memory.md R66). -/
def storeTo (i : Instr) (m : MemOperand) (v : Byte) (s : State) : Out :=
  let h := resolve m s
  complete i (pageExtra i h.crossed) ((s.past i).store h.ea v)

/-- Read, compute the byte and the flags, and write back through the same handle (40_addressing_modes.md R111). -/
def modify (i : Instr) (o : Rmw) (f : Byte → Flags → Byte × Flags) (s : State) : Out :=
  let r := f (readRmw o s) s.flags
  complete i (pageExtra i (rmwCrossed o s)) ((writeRmw o s r.1 (s.past i)).withFlags r.2)

/-- An instruction with no operand byte. -/
def implied (i : Instr) (act : State → State) (s : State) : Out := complete i 0 (act (s.past i))

/-- `Branch(cond)` (44_branch_jump.md R201): the offset is relative to the next instruction, and a taken branch costs
one cycle more. -/
def branchIf (i : Instr) (cond : Bool) (r : Byte) (s : State) : Out :=
  let next := s.past i
  if cond then complete i 1 (next.withPC (next.pc + sext16 r)) else complete i 0 next

/-- BBRb and BBSb: branch when bit `b` of a zero-page byte is `want` (44_branch_jump.md R211, R212). -/
def branchOnBit (i : Instr) (b : Nat) (want : Bool) (z r : Byte) (s : State) : Out :=
  branchIf i ((s.mem.read (zext16 z)).getLsbD b == want) r s

end Sys2Proof.Machine
end

