-- ==== Sys2Proof/Machine/Arithmetic.lean ====
section
/-! DEFINITION. Add, subtract, compare, increment, decrement (42_arithmetic.md). -/

namespace Sys2Proof.Machine

/-- ADC (R141); one cycle more in decimal mode. -/
def execAdc (o : Src) (s : State) : Out := 
  withOperand (.adc o) o (decimalExtra s.flags.d)
    (fun m t => let r := adcSum t.flags t.a m; (t.withA r.r).withFlags (t.flags.afterSum r)) s

/-- SBC (R144); one cycle more in decimal mode. -/
def execSbc (o : Src) (s : State) : Out := 
  withOperand (.sbc o) o (decimalExtra s.flags.d)
    (fun m t => let r := sbcSum t.flags t.a m; (t.withA r.r).withFlags (t.flags.afterSum r)) s

/-- CMP (R147). -/
def execCmp (o : Src) (s : State) : Out := withOperand (.cmp o) o 0 (fun m t => t.withFlags (t.flags.compare t.a m)) s

/-- CPX (R148). -/
def execCpx (o : Src) (s : State) : Out := withOperand (.cpx o) o 0 (fun m t => t.withFlags (t.flags.compare t.x m)) s

/-- CPY (R149). -/
def execCpy (o : Src) (s : State) : Out := withOperand (.cpy o) o 0 (fun m t => t.withFlags (t.flags.compare t.y m)) s

/-- INC (R150). -/
def execInc (o : Rmw) (s : State) : Out := modify (.inc o) o incByte s

/-- DEC (R151). -/
def execDec (o : Rmw) (s : State) : Out := modify (.dec o) o decByte s

/-- INX (R152). -/
def execInx (s : State) : Out := implied .inx (fun t => t.loadX (t.x + 1)) s

/-- INY (R153). -/
def execIny (s : State) : Out := implied .iny (fun t => t.loadY (t.y + 1)) s

/-- DEX (R154). -/
def execDex (s : State) : Out := implied .dex (fun t => t.loadX (t.x - 1)) s

/-- DEY (R155). -/
def execDey (s : State) : Out := implied .dey (fun t => t.loadY (t.y - 1)) s

end Sys2Proof.Machine
end

