-- ==== Sys2Proof/Machine/Branch.lean ====
section
/-! DEFINITION. Branches, bit branches, jumps, call and return (44_branch_jump.md). -/

namespace Sys2Proof.Machine

/-- BCC (R202). -/
def execBcc (r : Byte) (s : State) : Out := branchIf (.bcc r) (!s.flags.c) r s

/-- BCS (R203). -/
def execBcs (r : Byte) (s : State) : Out := branchIf (.bcs r) s.flags.c r s

/-- BEQ (R204). -/
def execBeq (r : Byte) (s : State) : Out := branchIf (.beq r) s.flags.z r s

/-- BNE (R205). -/
def execBne (r : Byte) (s : State) : Out := branchIf (.bne r) (!s.flags.z) r s

/-- BMI (R206). -/
def execBmi (r : Byte) (s : State) : Out := branchIf (.bmi r) s.flags.n r s

/-- BPL (R207). -/
def execBpl (r : Byte) (s : State) : Out := branchIf (.bpl r) (!s.flags.n) r s

/-- BVC (R208). -/
def execBvc (r : Byte) (s : State) : Out := branchIf (.bvc r) (!s.flags.v) r s

/-- BVS (R209). -/
def execBvs (r : Byte) (s : State) : Out := branchIf (.bvs r) s.flags.v r s

/-- BRA (R210). -/
def execBra (r : Byte) (s : State) : Out := branchIf (.bra r) true r s

/-- BBR0 (R211). -/
def execBbr0 (z r : Byte) (s : State) : Out := branchOnBit (.bbr0 z r) 0 false z r s

/-- BBR1 (R211). -/
def execBbr1 (z r : Byte) (s : State) : Out := branchOnBit (.bbr1 z r) 1 false z r s

/-- BBR2 (R211). -/
def execBbr2 (z r : Byte) (s : State) : Out := branchOnBit (.bbr2 z r) 2 false z r s

/-- BBR3 (R211). -/
def execBbr3 (z r : Byte) (s : State) : Out := branchOnBit (.bbr3 z r) 3 false z r s

/-- BBR4 (R211). -/
def execBbr4 (z r : Byte) (s : State) : Out := branchOnBit (.bbr4 z r) 4 false z r s

/-- BBR5 (R211). -/
def execBbr5 (z r : Byte) (s : State) : Out := branchOnBit (.bbr5 z r) 5 false z r s

/-- BBR6 (R211). -/
def execBbr6 (z r : Byte) (s : State) : Out := branchOnBit (.bbr6 z r) 6 false z r s

/-- BBR7 (R211). -/
def execBbr7 (z r : Byte) (s : State) : Out := branchOnBit (.bbr7 z r) 7 false z r s

/-- BBS0 (R212). -/
def execBbs0 (z r : Byte) (s : State) : Out := branchOnBit (.bbs0 z r) 0 true z r s

/-- BBS1 (R212). -/
def execBbs1 (z r : Byte) (s : State) : Out := branchOnBit (.bbs1 z r) 1 true z r s

/-- BBS2 (R212). -/
def execBbs2 (z r : Byte) (s : State) : Out := branchOnBit (.bbs2 z r) 2 true z r s

/-- BBS3 (R212). -/
def execBbs3 (z r : Byte) (s : State) : Out := branchOnBit (.bbs3 z r) 3 true z r s

/-- BBS4 (R212). -/
def execBbs4 (z r : Byte) (s : State) : Out := branchOnBit (.bbs4 z r) 4 true z r s

/-- BBS5 (R212). -/
def execBbs5 (z r : Byte) (s : State) : Out := branchOnBit (.bbs5 z r) 5 true z r s

/-- BBS6 (R212). -/
def execBbs6 (z r : Byte) (s : State) : Out := branchOnBit (.bbs6 z r) 6 true z r s

/-- BBS7 (R212). -/
def execBbs7 (z r : Byte) (s : State) : Out := branchOnBit (.bbs7 z r) 7 true z r s

/-- JMP: the memory at the target is not read (R213). -/
def execJmp (g : Target) (s : State) : Out := implied (.jmp g) (fun t => t.withPC (resolveTarget g s)) s

/-- JSR: the address of its own third byte is pushed, after both operand bytes were fetched (R214; log entry 20). -/
def execJsr (w : Word) (s : State) : Out := implied (.jsr w) (fun t => (t.pushWord (t.pc - 1)).withPC w) s

/-- RTS (R215). -/
def execRts (s : State) : Out := implied .rts (fun t => t.pop.pop.withPC (t.topWord + 1)) s

end Sys2Proof.Machine
end

