-- ==== Sys2Proof/Machine/LoadStore.lean ====
section
/-! DEFINITION. Loads, stores and transfers (41_load_store_transfer.md). -/

namespace Sys2Proof.Machine

/-- LDA (R121). -/
def execLda (o : Src) (s : State) : Out := withOperand (.lda o) o 0 (fun m t => t.loadA m) s

/-- LDX (R122). -/
def execLdx (o : Src) (s : State) : Out := withOperand (.ldx o) o 0 (fun m t => t.loadX m) s

/-- LDY (R123). -/
def execLdy (o : Src) (s : State) : Out := withOperand (.ldy o) o 0 (fun m t => t.loadY m) s

/-- STA (R124). -/
def execSta (m : MemOperand) (s : State) : Out := storeTo (.sta m) m s.a s

/-- STX (R125). -/
def execStx (m : MemOperand) (s : State) : Out := storeTo (.stx m) m s.x s

/-- STY (R126). -/
def execSty (m : MemOperand) (s : State) : Out := storeTo (.sty m) m s.y s

/-- STZ (R127). -/
def execStz (m : MemOperand) (s : State) : Out := storeTo (.stz m) m 0x00 s

/-- TAX (R128). -/
def execTax (s : State) : Out := implied .tax (fun t => t.loadX t.a) s

/-- TAY (R129). -/
def execTay (s : State) : Out := implied .tay (fun t => t.loadY t.a) s

/-- TXA (R130). -/
def execTxa (s : State) : Out := implied .txa (fun t => t.loadA t.x) s

/-- TYA (R133). -/
def execTya (s : State) : Out := implied .tya (fun t => t.loadA t.y) s

/-- TSX (R131). -/
def execTsx (s : State) : Out := implied .tsx (fun t => t.loadX t.sp) s

/-- TXS: no flag (R132). -/
def execTxs (s : State) : Out := implied .txs (fun t => t.withSP t.x) s

end Sys2Proof.Machine
end

