-- ==== Sys2Proof/Machine/Logic.lean ====
section
/-! DEFINITION. Logic, bit test, shifts, rotates and bit manipulation (43_logic_shift_bit.md). -/

namespace Sys2Proof.Machine

/-- AND (R171). -/
def execAnd (o : Src) (s : State) : Out := withOperand (.and o) o 0 (fun m t => t.loadA (t.a &&& m)) s

/-- ORA (R172). -/
def execOra (o : Src) (s : State) : Out := withOperand (.ora o) o 0 (fun m t => t.loadA (t.a ||| m)) s

/-- EOR (R173). -/
def execEor (o : Src) (s : State) : Out := withOperand (.eor o) o 0 (fun m t => t.loadA (t.a ^^^ m)) s

/-- The flags after BIT: the immediate form writes Z only (R174). -/
def bitFlags (o : Src) (f : Flags) (a m : Byte) : Flags :=
  match o with
  | .imm _ => f.testMask a m
  | .mem _ => f.bitMemory a m

/-- BIT (R174). -/
def execBit (o : Src) (s : State) : Out := 
  withOperand (.bit o) o 0 (fun m t => t.withFlags (bitFlags o t.flags t.a m)) s

/-- ASL (R175). -/
def execAsl (o : Rmw) (s : State) : Out := modify (.asl o) o aslByte s

/-- LSR (R176). -/
def execLsr (o : Rmw) (s : State) : Out := modify (.lsr o) o lsrByte s

/-- ROL (R177). -/
def execRol (o : Rmw) (s : State) : Out := modify (.rol o) o rolByte s

/-- ROR (R178). -/
def execRor (o : Rmw) (s : State) : Out := modify (.ror o) o rorByte s

/-- TRB (R179). -/
def execTrb (m : MemOperand) (s : State) : Out := modify (.trb m) (.mem m) (trbByte s.a) s

/-- TSB (R180). -/
def execTsb (m : MemOperand) (s : State) : Out := modify (.tsb m) (.mem m) (tsbByte s.a) s

/-- RMB0 (R181). -/
def execRmb0 (z : Byte) (s : State) : Out := modify (.rmb0 z) (.mem (.zp z)) (rmbByte 0) s

/-- RMB1 (R181). -/
def execRmb1 (z : Byte) (s : State) : Out := modify (.rmb1 z) (.mem (.zp z)) (rmbByte 1) s

/-- RMB2 (R181). -/
def execRmb2 (z : Byte) (s : State) : Out := modify (.rmb2 z) (.mem (.zp z)) (rmbByte 2) s

/-- RMB3 (R181). -/
def execRmb3 (z : Byte) (s : State) : Out := modify (.rmb3 z) (.mem (.zp z)) (rmbByte 3) s

/-- RMB4 (R181). -/
def execRmb4 (z : Byte) (s : State) : Out := modify (.rmb4 z) (.mem (.zp z)) (rmbByte 4) s

/-- RMB5 (R181). -/
def execRmb5 (z : Byte) (s : State) : Out := modify (.rmb5 z) (.mem (.zp z)) (rmbByte 5) s

/-- RMB6 (R181). -/
def execRmb6 (z : Byte) (s : State) : Out := modify (.rmb6 z) (.mem (.zp z)) (rmbByte 6) s

/-- RMB7 (R181). -/
def execRmb7 (z : Byte) (s : State) : Out := modify (.rmb7 z) (.mem (.zp z)) (rmbByte 7) s

/-- SMB0 (R182). -/
def execSmb0 (z : Byte) (s : State) : Out := modify (.smb0 z) (.mem (.zp z)) (smbByte 0) s

/-- SMB1 (R182). -/
def execSmb1 (z : Byte) (s : State) : Out := modify (.smb1 z) (.mem (.zp z)) (smbByte 1) s

/-- SMB2 (R182). -/
def execSmb2 (z : Byte) (s : State) : Out := modify (.smb2 z) (.mem (.zp z)) (smbByte 2) s

/-- SMB3 (R182). -/
def execSmb3 (z : Byte) (s : State) : Out := modify (.smb3 z) (.mem (.zp z)) (smbByte 3) s

/-- SMB4 (R182). -/
def execSmb4 (z : Byte) (s : State) : Out := modify (.smb4 z) (.mem (.zp z)) (smbByte 4) s

/-- SMB5 (R182). -/
def execSmb5 (z : Byte) (s : State) : Out := modify (.smb5 z) (.mem (.zp z)) (smbByte 5) s

/-- SMB6 (R182). -/
def execSmb6 (z : Byte) (s : State) : Out := modify (.smb6 z) (.mem (.zp z)) (smbByte 6) s

/-- SMB7 (R182). -/
def execSmb7 (z : Byte) (s : State) : Out := modify (.smb7 z) (.mem (.zp z)) (smbByte 7) s

end Sys2Proof.Machine
end

