-- ==== Sys2Proof/Machine/StackFlag.lean ====
section
/-! DEFINITION. Stack and flag instructions (45_stack_flag_system.md). -/

namespace Sys2Proof.Machine

/-- PHA (R231). -/
def execPha (s : State) : Out := implied .pha (fun t => t.push t.a) s

/-- PHP (R232). B is pushed as held (log entry 14). -/
def execPhp (s : State) : Out := implied .php (fun t => t.push t.flags.toByte) s

/-- PHX (R233). -/
def execPhx (s : State) : Out := implied .phx (fun t => t.push t.x) s

/-- PHY (R234). -/
def execPhy (s : State) : Out := implied .phy (fun t => t.push t.y) s

/-- PLA (R235). -/
def execPla (s : State) : Out := implied .pla (fun t => t.pop.loadA t.top) s

/-- PLX (R237). -/
def execPlx (s : State) : Out := implied .plx (fun t => t.pop.loadX t.top) s

/-- PLY (R238). -/
def execPly (s : State) : Out := implied .ply (fun t => t.pop.loadY t.top) s

/-- PLP (R236). -/
def execPlp (s : State) : Out := implied .plp (fun t => t.pop.withFlags (.ofByte t.top)) s

/-- CLC (R239). -/
def execClc (s : State) : Out := implied .clc (fun t => t.withFlags { t.flags with c := false }) s

/-- CLD (R240). -/
def execCld (s : State) : Out := implied .cld (fun t => t.withFlags { t.flags with d := false }) s

/-- CLI (R241). -/
def execCli (s : State) : Out := implied .cli (fun t => t.withFlags { t.flags with i := false }) s

/-- CLV (R242). -/
def execClv (s : State) : Out := implied .clv (fun t => t.withFlags { t.flags with v := false }) s

/-- SEC (R243). -/
def execSec (s : State) : Out := implied .sec (fun t => t.withFlags { t.flags with c := true }) s

/-- SED (R244). -/
def execSed (s : State) : Out := implied .sed (fun t => t.withFlags { t.flags with d := true }) s

/-- SEI (R245). -/
def execSei (s : State) : Out := implied .sei (fun t => t.withFlags { t.flags with i := true }) s

end Sys2Proof.Machine
end

