-- ==== Sys2Proof/Machine/System.lean ====
section
/-! DEFINITION. No operation, the BRK trap and its return, WAI, STP (45_stack_flag_system.md), and decode failure (60_exceptions.md). -/

namespace Sys2Proof.Machine

/-- NOP (R246). -/
def execNop (s : State) : Out := implied .nop (fun t => t) s

/-- BRK: the trap entry is its effect (R247, 60_exceptions.md R272). -/
def execBrk (s : State) : Out := implied .brk State.trapEntry s

/-- RTI (R248, 60_exceptions.md R275). -/
def execRti (s : State) : Out := implied .rti State.trapReturn s

/-- WAI (R251). -/
def execWai (s : State) : Out := haltWith .wait (s.past .wai)

/-- STP (R252). -/
def execStp (s : State) : Out := haltWith .stop (s.past .stp)

/-- An unassigned opcode byte (60_exceptions.md R271). -/
def execUnassigned (op : Byte) (s : State) : Out := decodeFailure op (s.past (.unassigned op))

end Sys2Proof.Machine
end

