-- ==== Sys2Proof/Machine/Fetch.lean ====
section
/-! DEFINITION. Fetching an instruction at PC (30_encoding.md R71, R72), and storing one there. -/

namespace Sys2Proof.Machine

/-- Byte `k` of the instruction at PC (30_encoding.md R70). -/
def State.byteAt (s : State) (k : Nat) : Byte := s.mem.read (s.pc + BitVec.ofNat 16 k)

/-- The bytes at PC, as many as the longest instruction has. -/
def State.codeBytes (s : State) : List Byte := [s.byteAt 0, s.byteAt 1, s.byteAt 2]

/-- The instruction at PC. The bytes after the opcode that the format does not have do not matter (log entry 23). -/
def State.fetch (s : State) : Instr := (cellOf (s.byteAt 0)).instr (s.byteAt 0) (s.byteAt 1) (s.byteAt 2)

/-- Store bytes at an address and the following ones. -/
def Memory.writeBytes (m : Memory) (a : Word) (bytes : List Byte) : Memory :=
  match bytes with
  | [] => m
  | v :: rest => Memory.writeBytes (m.write a v) (a + 1) rest

/-- An instruction placed at PC of a running machine (log entry 6). -/
def State.placeCode (s : State) (bytes : List Byte) : State :=
  (s.withMem (s.mem.writeBytes s.pc bytes)).withHalt .run

end Sys2Proof.Machine
end

