-- ==== Sys2Proof/Machine/Step.lean ====
section
/-! DEFINITION. `Step`, the one operation that executes (30_encoding.md R80). -/

namespace Sys2Proof.Machine

/-- One step. A halted core fetches nothing and reports its halt; a running one executes the instruction at PC. -/
def step (s : State) : Host.Outcome State Fault Refusal :=
  match s.halt with
  | .run => exec s.fetch s
  | .wait => stayHalted .wait s
  | .stop => stayHalted .stop s

/-- `s` with the instruction of a row of spec/opcode_table.json stored at PC, where the next step fetches, and HALT at
RUN, without which it would not fetch. The core has no loader (70_reset_and_hazards.md R302): this stands for the host's
placing a program (log entry 6). -/
def State.withFetchWord (s : State) (nbits w : Nat) : State := s.placeCode (tableBytes nbits w)

end Sys2Proof.Machine
end

