-- ==== Sys2Proof/Machine/HostPort.lean ====
section
/-! DEFINITION. What the host may do between two steps (10_state.md R32 to R34; 20_memory.md R65;
70_reset_and_hazards.md R300). -/

namespace Sys2Proof.Machine

/-- The observation port: the register snapshot, the flags and the composite byte (10_state.md R32). HALT is not among
its fields (R29). -/
structure Snapshot where
  a : Byte
  x : Byte
  y : Byte
  pc : Word
  sp : Byte
  flags : Flags
  p : Byte
deriving DecidableEq, Repr

/-- Reading the observation port. -/
def State.snapshot (s : State) : Snapshot where
  a := s.a
  x := s.x
  y := s.y
  pc := s.pc
  sp := s.sp
  flags := s.flags
  p := s.flags.toByte

/-- The host's read of a byte of its memory (10_state.md R34). -/
def State.peek (s : State) (a : Word) : Byte := s.mem.read a

/-- The host's moves that change something. `reset` carries `SP_RESET`, which is open (92_eei_decisions.md D3). -/
inductive HostMove where
  | reset (spReset : Byte)
  | setPC (v : Word)
  | poke (a : Word) (v : Byte)
  | clearMemory
deriving DecidableEq, Repr

/-- `Reset`: every register, flag and HALT; memory is left as it is (70_reset_and_hazards.md R300). -/
def State.doReset (s : State) (p : Byte) : State := .resetWith p s.mem

/-- `SetPC(v)` (10_state.md R33). -/
def State.setPC (s : State) (v : Word) : State := s.withPC v

/-- The host's write of a byte (10_state.md R34). -/
def State.poke (s : State) (a : Word) (v : Byte) : State := s.withMem (s.mem.write a v)

/-- The memory collaborator's own reset: every byte 0 (20_memory.md R65), the byte an unlisted address reads as. -/
def State.clearMemory (s : State) : State := s.withMem []

/-- A host move. -/
def hostMove (h : HostMove) (s : State) : State :=
  match h with
  | .reset p => s.doReset p
  | .setPC v => s.setPC v
  | .poke a v => s.poke a v
  | .clearMemory => s.clearMemory

end Sys2Proof.Machine
end

