-- ==== Sys2Proof/Safety.lean ====
section
/-! DEFINITION. What counts as a safe run, and the words the claims are stated in: the invariant, sessions of steps and
host moves, and the spec's arithmetic of addresses and costs written over numbers, apart from the machine's own. -/

namespace Sys2Proof.Machine

/-! ## The invariant -/

/-- The result port and HALT tell the same story: `Halted(k)` is shown exactly while HALT is `k`, a cycle count is
between 2 and 7 (70_reset_and_hazards.md R304, R305), and a failed byte is an unassigned one. -/
def Result.agrees (r : Result) (h : RunState) : Bool :=
  match r with
  | .nothing => h == .run
  | .cycles n => h == .run && decide (2 ≤ n) && decide (n ≤ 7)
  | .halted k => h == k.runState
  | .decodeError op => h == .run && unassignedBytes.contains op

/-- What every step and every host move keeps: memory in its canonical form, and the result port in agreement with HALT. -/
def State.Inv (s : State) : Prop := s.mem.wf = true ∧ s.result.agrees s.halt = true

/-! ## Sessions -/

/-- The state a fault leaves, from which the host may resume (60_exceptions.md R271). -/
def Fault.after : Fault → State
  | .decodeError _ t => t

/-- What can happen next: a step, or a host move between steps (10_state.md R34). -/
inductive Event where
  | step
  | host (h : HostMove)
deriving DecidableEq, Repr

/-- The state after an event; after a decode failure the host goes on from the state it left. -/
def Event.apply (e : Event) (s : State) : State :=
  match e with
  | .host h => hostMove h s
  | .step =>
    match Machine.step s with
    | .next t => t
    | .fault f => f.after
    | .refused _ => s

/-- The state after a session, oldest event first. -/
def session (es : List Event) (s : State) : State :=
  match es with
  | [] => s
  | e :: rest => session rest (e.apply s)

/-- Whether an event is a `Reset`. -/
def Event.isReset : Event → Bool
  | .host (.reset _) => true
  | .host _ | .step => false

/-- A safe run of `n` steps: no decode failure. -/
def SafeRun (n : Nat) (s : State) : Prop := ∃ t, core.run n s = .next t

/-! ## Addresses and costs over numbers -/

/-- The byte at a number's address. -/
def State.byteNat (s : State) (k : Nat) : Nat := (s.mem.lookup k).toNat

/-- The zero-page pointer at `p`: both bytes in page zero, low byte first (20_memory.md R52, R56). -/
def State.pointerNat (s : State) (p : Nat) : Nat := s.byteNat (p % 256) + 256 * s.byteNat ((p + 1) % 256)

/-- The effective address of a memory mode, by the arithmetic of 40_addressing_modes.md R91 to R93 and R102 to R107. -/
def addressNat (m : MemOperand) (s : State) : Nat :=
  match m with
  | .abs w => w.toNat
  | .abx w => (w.toNat + s.x.toNat) % 65536
  | .aby w => (w.toNat + s.y.toNat) % 65536
  | .zp z => z.toNat
  | .zpx z => (z.toNat + s.x.toNat) % 256
  | .zpy z => (z.toNat + s.y.toNat) % 256
  | .izx z => s.pointerNat (z.toNat + s.x.toNat)
  | .izp z => s.pointerNat z.toNat
  | .izy z => (s.pointerNat z.toNat + s.y.toNat) % 65536

/-- Whether an indexed mode crosses a page: the index carries out of the low byte of its base. -/
def crossesNat (m : MemOperand) (s : State) : Bool :=
  match m with
  | .abx w => decide (256 ≤ w.toNat % 256 + s.x.toNat)
  | .aby w => decide (256 ≤ w.toNat % 256 + s.y.toNat)
  | .izy z => decide (256 ≤ s.pointerNat z.toNat % 256 + s.y.toNat)
  | .abs _ | .zp _ | .zpx _ | .zpy _ | .izx _ | .izp _ => false

/-- One more cycle when a condition holds. -/
def plusIf (n : Nat) (cond : Bool) : Nat := if cond then n + 1 else n

/-- The cycles of reading an operand, by the regularities of 70_reset_and_hazards.md R305. -/
def readCost (o : Src) (s : State) : Nat :=
  match o with
  | .imm _ => 2
  | .mem (.zp _) => 3
  | .mem (.zpx _) | .mem (.zpy _) | .mem (.abs _) => 4
  | .mem (.izx _) => 6
  | .mem (.izp _) => 5
  | .mem (.abx w) => plusIf 4 (crossesNat (.abx w) s)
  | .mem (.aby w) => plusIf 4 (crossesNat (.aby w) s)
  | .mem (.izy z) => plusIf 5 (crossesNat (.izy z) s)

/-- The cycles of a store: no page-cross extra. -/
def storeCost : MemOperand → Nat
  | .zp _ => 3
  | .zpx _ | .zpy _ | .abs _ => 4
  | .abx _ | .aby _ | .izp _ => 5
  | .izx _ | .izy _ => 6

/-- The cycles of a shift or rotate; an absolute,X one earns the page-cross cycle. -/
def shiftCost (o : Rmw) (s : State) : Nat :=
  match o with
  | .acc => 2
  | .mem (.zp _) => 5
  | .mem (.abx w) => plusIf 6 (crossesNat (.abx w) s)
  | .mem _ => 6

/-- The cycles of INC and DEC: absolute,X always takes 7. -/
def incCost : Rmw → Nat
  | .acc => 2
  | .mem (.zp _) => 5
  | .mem (.abx _) => 7
  | .mem _ => 6

/-! ## Families of instructions -/

/-- RMBb. -/
def rmb (b : Fin 8) (z : Byte) : Instr :=
  match b with
  | 0 => .rmb0 z | 1 => .rmb1 z | 2 => .rmb2 z | 3 => .rmb3 z
  | 4 => .rmb4 z | 5 => .rmb5 z | 6 => .rmb6 z | 7 => .rmb7 z

/-- SMBb. -/
def smb (b : Fin 8) (z : Byte) : Instr :=
  match b with
  | 0 => .smb0 z | 1 => .smb1 z | 2 => .smb2 z | 3 => .smb3 z
  | 4 => .smb4 z | 5 => .smb5 z | 6 => .smb6 z | 7 => .smb7 z

/-- BBRb. -/
def bbr (b : Fin 8) (z r : Byte) : Instr :=
  match b with
  | 0 => .bbr0 z r | 1 => .bbr1 z r | 2 => .bbr2 z r | 3 => .bbr3 z r
  | 4 => .bbr4 z r | 5 => .bbr5 z r | 6 => .bbr6 z r | 7 => .bbr7 z r

/-- BBSb. -/
def bbs (b : Fin 8) (z r : Byte) : Instr :=
  match b with
  | 0 => .bbs0 z r | 1 => .bbs1 z r | 2 => .bbs2 z r | 3 => .bbs3 z r
  | 4 => .bbs4 z r | 5 => .bbs5 z r | 6 => .bbs6 z r | 7 => .bbs7 z r

/-- The nine relative branches, each with the condition it tests (44_branch_jump.md R202 to R210, R217). -/
def branches (r : Byte) (f : Flags) : List (Instr × Bool) :=
  [(.bcc r, !f.c), (.bcs r, f.c), (.beq r, f.z), (.bne r, !f.z), (.bmi r, f.n), (.bpl r, !f.n),
   (.bvc r, !f.v), (.bvs r, f.v), (.bra r, true)]

/-- The value of a byte read as two decimal digits. -/
def bcdValue (b : Byte) : Nat := 10 * (b.toNat / 16) + b.toNat % 16

/-- Whether both nibbles of a byte are decimal digits. -/
def isBcd (b : Byte) : Bool := decide (b.toNat / 16 ≤ 9) && decide (b.toNat % 16 ≤ 9)

/-- Flags with N and Z of a byte. -/
def Flags.nz (f : Flags) (v : Byte) : Flags := { f with n := decide (128 ≤ v.toNat), z := decide (v.toNat = 0) }

/-! ## What each instruction may write -/

/-- The byte an instruction performs SetNZ on, if it performs it (10_state.md R27, list for list): the register or the
memory byte it wrote, or the difference a compare does not store. `s` is the state before, `t` the state after. -/
def testedByte (i : Instr) (s t : State) : Option Byte :=
  match i with
  | .lda _ | .txa | .tya | .pla | .and _ | .ora _ | .eor _ | .adc _ | .sbc _ => some t.a
  | .ldx _ | .tax | .tsx | .plx | .inx | .dex => some t.x
  | .ldy _ | .tay | .ply | .iny | .dey => some t.y
  | .asl .acc | .lsr .acc | .rol .acc | .ror .acc | .inc .acc | .dec .acc => some t.a
  | .asl (.mem m) | .lsr (.mem m) | .rol (.mem m) | .ror (.mem m) | .inc (.mem m) | .dec (.mem m) =>
    some (t.mem.read (resolve m s).ea)
  | .cmp o => some (s.a - readSrc o s)
  | .cpx o => some (s.x - readSrc o s)
  | .cpy o => some (s.y - readSrc o s)
  | .sta _ | .stx _ | .sty _ | .stz _ | .txs | .pha | .php | .phx | .phy | .trb _ | .tsb _ | .bit _ => none
  | .rmb0 _ | .rmb1 _ | .rmb2 _ | .rmb3 _ | .rmb4 _ | .rmb5 _ | .rmb6 _ | .rmb7 _ => none
  | .smb0 _ | .smb1 _ | .smb2 _ | .smb3 _ | .smb4 _ | .smb5 _ | .smb6 _ | .smb7 _ => none
  | .bcc _ | .bcs _ | .beq _ | .bne _ | .bmi _ | .bpl _ | .bvc _ | .bvs _ | .bra _ => none
  | .bbr0 _ _ | .bbr1 _ _ | .bbr2 _ _ | .bbr3 _ _ | .bbr4 _ _ | .bbr5 _ _ | .bbr6 _ _ | .bbr7 _ _ => none
  | .bbs0 _ _ | .bbs1 _ _ | .bbs2 _ _ | .bbs3 _ _ | .bbs4 _ _ | .bbs5 _ _ | .bbs6 _ _ | .bbs7 _ _ => none
  | .jmp _ | .jsr _ | .rts | .plp | .clc | .cld | .cli | .clv | .sec | .sed | .sei | .nop | .brk | .rti | .wai | .stp
  | .unassigned _ => none

/-- No flag. -/
def Flags.none : Flags := .cleared

/-- N and Z. -/
def Flags.onlyNZ : Flags := { Flags.none with n := true, z := true }

/-- The flags an instruction's rule lists under "Flags written", a flag marked true when it is listed
(10_state.md R25, R28). -/
def flagsWritten : Instr → Flags
  | .lda _ | .ldx _ | .ldy _ | .tax | .tay | .txa | .tya | .tsx | .pla | .plx | .ply => .onlyNZ
  | .and _ | .ora _ | .eor _ | .inc _ | .dec _ | .inx | .iny | .dex | .dey => .onlyNZ
  | .adc _ | .sbc _ => { Flags.onlyNZ with v := true, c := true }
  | .cmp _ | .cpx _ | .cpy _ | .asl _ | .lsr _ | .rol _ | .ror _ => { Flags.onlyNZ with c := true }
  | .bit (.imm _) | .trb _ | .tsb _ => { Flags.none with z := true }
  | .bit (.mem _) => { Flags.onlyNZ with v := true }
  | .clc | .sec => { Flags.none with c := true }
  | .cld | .sed => { Flags.none with d := true }
  | .cli | .sei => { Flags.none with i := true }
  | .clv => { Flags.none with v := true }
  | .brk => { Flags.none with b := true, i := true, d := true }
  | .plp | .rti => ⟨true, true, true, true, true, true, true⟩
  | .sta _ | .stx _ | .sty _ | .stz _ | .txs | .pha | .php | .phx | .phy => .none
  | .rmb0 _ | .rmb1 _ | .rmb2 _ | .rmb3 _ | .rmb4 _ | .rmb5 _ | .rmb6 _ | .rmb7 _ => .none
  | .smb0 _ | .smb1 _ | .smb2 _ | .smb3 _ | .smb4 _ | .smb5 _ | .smb6 _ | .smb7 _ => .none
  | .bcc _ | .bcs _ | .beq _ | .bne _ | .bmi _ | .bpl _ | .bvc _ | .bvs _ | .bra _ => .none
  | .bbr0 _ _ | .bbr1 _ _ | .bbr2 _ _ | .bbr3 _ _ | .bbr4 _ _ | .bbr5 _ _ | .bbr6 _ _ | .bbr7 _ _ => .none
  | .bbs0 _ _ | .bbs1 _ _ | .bbs2 _ _ | .bbs3 _ _ | .bbs4 _ _ | .bbs5 _ _ | .bbs6 _ _ | .bbs7 _ _ => .none
  | .jmp _ | .jsr _ | .rts | .nop | .wai | .stp | .unassigned _ => .none

/-- The flags of `f` and `g` agree wherever the mask does not allow a change. -/
def Flags.keptOutside (mask f g : Flags) : Prop :=
  (mask.n = false → g.n = f.n) ∧ (mask.v = false → g.v = f.v) ∧ (mask.b = false → g.b = f.b)
    ∧ (mask.d = false → g.d = f.d) ∧ (mask.i = false → g.i = f.i) ∧ (mask.z = false → g.z = f.z)
    ∧ (mask.c = false → g.c = f.c)

/-- The addresses an instruction stores to in the state before it. -/
def storedAddresses (i : Instr) (s : State) : List Word :=
  match i with
  | .sta m | .stx m | .sty m | .stz m | .trb m | .tsb m => [(resolve m s).ea]
  | .inc (.mem m) | .dec (.mem m) | .asl (.mem m) | .lsr (.mem m) | .rol (.mem m) | .ror (.mem m) => [(resolve m s).ea]
  | .inc .acc | .dec .acc | .asl .acc | .lsr .acc | .rol .acc | .ror .acc => []
  | .rmb0 z | .rmb1 z | .rmb2 z | .rmb3 z | .rmb4 z | .rmb5 z | .rmb6 z | .rmb7 z => [zext16 z]
  | .smb0 z | .smb1 z | .smb2 z | .smb3 z | .smb4 z | .smb5 z | .smb6 z | .smb7 z => [zext16 z]
  | .pha | .php | .phx | .phy => [stackAddress s.sp]
  | .jsr _ => [stackAddress s.sp, stackAddress (s.sp - 1)]
  | .brk => [stackAddress s.sp, stackAddress (s.sp - 1), stackAddress (s.sp - 1 - 1)]
  | .lda _ | .ldx _ | .ldy _ | .tax | .tay | .txa | .tya | .tsx | .txs | .adc _ | .sbc _ | .cmp _ | .cpx _ | .cpy _ => []
  | .inx | .iny | .dex | .dey | .and _ | .ora _ | .eor _ | .bit _ => []
  | .bcc _ | .bcs _ | .beq _ | .bne _ | .bmi _ | .bpl _ | .bvc _ | .bvs _ | .bra _ => []
  | .bbr0 _ _ | .bbr1 _ _ | .bbr2 _ _ | .bbr3 _ _ | .bbr4 _ _ | .bbr5 _ _ | .bbr6 _ _ | .bbr7 _ _ => []
  | .bbs0 _ _ | .bbs1 _ _ | .bbs2 _ _ | .bbs3 _ _ | .bbs4 _ _ | .bbs5 _ _ | .bbs6 _ _ | .bbs7 _ _ => []
  | .jmp _ | .rts | .pla | .plp | .plx | .ply | .clc | .cld | .cli | .clv | .sec | .sed | .sei | .nop => []
  | .rti | .wai | .stp | .unassigned _ => []

/-- The instructions that write A (10_state.md R20). -/
def writesA : Instr → Bool
  | .lda _ | .pla | .txa | .tya | .adc _ | .sbc _ | .and _ | .ora _ | .eor _ => true
  | .asl o | .lsr o | .rol o | .ror o | .inc o | .dec o => o == .acc
  | _ => false

/-- The instructions that write X (10_state.md R21). -/
def writesX : Instr → Bool
  | .ldx _ | .plx | .tax | .tsx | .inx | .dex => true
  | _ => false

/-- The instructions that write Y (10_state.md R22). -/
def writesY : Instr → Bool
  | .ldy _ | .ply | .tay | .iny | .dey => true
  | _ => false

/-- The instructions that write SP (10_state.md R24). -/
def writesSP : Instr → Bool
  | .txs | .pha | .php | .phx | .phy | .pla | .plp | .plx | .ply | .jsr _ | .rts | .brk | .rti => true
  | _ => false

end Sys2Proof.Machine
end

