-- ==== Sys2Proof/Certificates/Slice0/Obligations.lean ====
section
/-! DEFINITION. The statements for the provers. Each formalises the rules its docstring names. In an equation between
records, every field not named is unchanged: it is the frame. `{ t with mem := s.mem } = …` frames everything but memory,
and the clause about `t.mem.read` then says each byte. -/

open Sys2Proof Sys2Proof.Machine

/-! ## Encoding -/

/-- Every well-formed instruction, with every operand value, is read back from its bytes, and is as long as its mode
says (30_encoding.md R70, R71, R76). The byte values are the spec's general knowledge (log entry 8). -/
def Obligations.DecodeOfEncodeGivesTheInstruction : Prop :=
  ∀ (i : Instr) (rest : List Byte), i.wf = true →
    ∃ bytes, encode i = some bytes ∧ bytes.length = i.length ∧ decode (bytes ++ rest) = .ok (i, rest)

/-- Whatever decodes is well formed, and its encoding is exactly the bytes that were read (30_encoding.md R79): no byte
string has two readings, and none is dropped. -/
def Obligations.EncodeOfDecodeGivesTheBytes : Prop :=
  ∀ (bytes rest : List Byte) (i : Instr), decode bytes = .ok (i, rest) →
    i.wf = true ∧ ∃ head, encode i = some head ∧ bytes = head ++ rest

/-- The terms with an opcode byte are the well-formed ones (30_encoding.md R76; 40_addressing_modes.md R108). -/
def Obligations.WellFormedMeansEncodable : Prop :=
  ∀ i : Instr, i.wf = true ↔ i.opcode.isSome = true

/-- The opcode byte alone fixes the addressing mode and the length (30_encoding.md R70, R78). -/
def Obligations.OpcodeFixesModeAndLength : Prop :=
  ∀ (i j : Instr), i.opcode.isSome = true → i.opcode = j.opcode → i.mode = j.mode ∧ i.length = j.length

/-- Words written out from the spec's encodings: 30_encoding.md R81 and R84, 40_addressing_modes.md R91 to R107, and the
rules of each family. -/
def Obligations.SpecWordsDecode : Prop :=
  decode [0xA9, 0xFA] = .ok (.lda (.imm 0xFA), []) ∧ decode [0x9D, 0xF0, 0x20] = .ok (.sta (.abx 0x20F0), []) ∧
  decode [0x69, 0x50] = .ok (.adc (.imm 0x50), []) ∧ decode [0x32, 0x00] = .ok (.and (.mem (.izp 0x00)), []) ∧
  decode [0x37, 0x12] = .ok (.rmb3 0x12, []) ∧ decode [0x3F, 0x12, 0x0D] = .ok (.bbr3 0x12 0x0D, []) ∧
  decode [0x7C, 0x34, 0x12] = .ok (.jmp (.iax 0x1234), []) ∧ decode [0x48] = .ok (.pha, []) ∧
  decode [0x00] = .ok (.brk, []) ∧ decode [0x02] = .ok (.unassigned 0x02, [])

/-! ## The step -/

/-- A running core executes the instruction its bytes at PC decode to (30_encoding.md R80). -/
def Obligations.StepRunsTheDecodedInstruction : Prop :=
  ∀ (s : State) (i : Instr) (rest : List Byte), s.halt = .run → decode s.codeBytes = .ok (i, rest) → step s = exec i s

/-- What a step answers, decided in this order: a halted core reports its halt and changes nothing else; an unassigned
byte is the decode failure, PC has passed it, and nothing else has changed; WAI and STP end in `Halted`, everything else
in `Cycles(n)` (60_exceptions.md R271, R274, R279; 30_encoding.md R80; the spec's decisions D17 and D23). The model's own
part: the report of a step stands in `result` (log entry 3, DESIGN CHOICE), the failure is a fault that carries the state
after it (log entry 4, DEDUCED), and a halted step answers a next state (log entry 5, DESIGN CHOICE). -/
def Obligations.StepOutcomesAreDecidedInOrder : Prop :=
  ∀ s : State,
    match s.halt with
    | .wait => step s = .next { s with result := .halted .wait }
    | .stop => step s = .next { s with result := .halted .stop }
    | .run =>
      if unassignedBytes.contains (s.byteAt 0) = true then
        step s = .fault (.decodeError (s.byteAt 0) { s with pc := s.pc + 1, result := .decodeError (s.byteAt 0) })
      else
        ∃ (t : State) (n : Nat), step s = .next t ∧
          t.result = if s.fetch = .wai then .halted .wait else if s.fetch = .stp then .halted .stop else .cycles n

/-- Executing an unassigned byte stops with the decode failure, whatever the state (60_exceptions.md R271; log entry 4). -/
def Obligations.UnassignedByteStops : Prop :=
  ∀ (op : Byte) (s : State),
    exec (.unassigned op) s = .fault (.decodeError op { s with pc := s.pc + 1, result := .decodeError op })

/-- A row's word placed where the step fetches is what the next step runs (log entry 6). -/
def Obligations.PlacedWordIsRunNext : Prop :=
  ∀ (s : State) (nbits w : Nat) (i : Instr), decodeTableWord nbits w = some i →
    step (s.withFetchWord nbits w) = exec i (s.withFetchWord nbits w)

/-! ## Addressing modes and memory -/

/-- The effective address of every memory mode, as arithmetic over numbers, where it wraps to 16 bits and where it stays
in page zero; and the operand a reading instruction takes, which is the byte at that address, or the immediate byte
itself (40_addressing_modes.md R90 to R93, R97, R102 to R107; 20_memory.md R51, R52, R56; log entries 16 and 17). -/
def Obligations.EffectiveAddressesAreTheModes : Prop :=
  ∀ s : State,
    (∀ m : MemOperand, (resolve m s).ea.toNat = addressNat m s ∧
      (readSrc (.mem m) s).toNat = s.byteNat (addressNat m s)) ∧
    ∀ v : Byte, readSrc (.imm v) s = v

/-- The page-cross bit of a handle is the carry of the index out of the base's low byte, in absolute,X, absolute,Y and
(zp),Y, a wrap through 0xFFFF included, and 0 in every other mode (40_addressing_modes.md R90, R110). -/
def Obligations.PageCrossIsCarryOutOfLowByte : Prop :=
  ∀ (m : MemOperand) (s : State), (resolve m s).crossed = crossesNat m s

/-- `Push(v)`: the byte goes to 0x0100 + SP as it was, every other byte stays, and SP goes down by one modulo 2^8; no
address leaves page one and nothing else changes (20_memory.md R57). -/
def Obligations.PushStoresThenDecrements : Prop :=
  ∀ (s : State) (v : Byte),
    { s.push v with mem := s.mem } = { s with sp := (s.push v).sp } ∧
    (s.push v).sp.toNat = (s.sp.toNat + 255) % 256 ∧
    ∀ a : Word, (s.push v).mem.read a = if a.toNat = 0x100 + s.sp.toNat then v else s.mem.read a

/-- A pull increments SP first, then reads: after a push it gives the byte back and SP is as before (20_memory.md R58,
the spec's decision D7; log entry 15). -/
def Obligations.PullUndoesPush : Prop :=
  ∀ (s : State) (v : Byte),
    (s.push v).top = v ∧ { (s.push v).pop with mem := s.mem } = s ∧
    s.top.toNat = s.byteNat (0x100 + (s.sp.toNat + 1) % 256) ∧ s.pop.sp.toNat = (s.sp.toNat + 1) % 256

/-- Memories in canonical form are equal as data when every address reads the same (20_memory.md R50, R65; the form is
the model's, log entry 2). -/
def Obligations.CanonicalMemoriesWithEqualReadsAreEqual : Prop :=
  ∀ m m' : Memory, m.wf = true → m'.wf = true → (∀ a : Word, m.read a = m'.read a) → m = m'

/-! ## Loads, stores, transfers -/

/-- LDA, LDX and LDY, every form: the register takes the operand, N and Z test it, PC passes the instruction, and the
count is the mode's (41_load_store_transfer.md R121 to R123; cycles: log entry 10). -/
def Obligations.LoadsTakeTheOperand : Prop :=
  ∀ (o : Src) (s : State),
    ((Instr.lda o).wf = true → exec (.lda o) s = .next { s with
      a := readSrc o s, flags := s.flags.nz (readSrc o s), pc := s.pc + BitVec.ofNat 16 (Instr.lda o).length,
      result := .cycles (readCost o s) }) ∧
    ((Instr.ldx o).wf = true → exec (.ldx o) s = .next { s with
      x := readSrc o s, flags := s.flags.nz (readSrc o s), pc := s.pc + BitVec.ofNat 16 (Instr.ldx o).length,
      result := .cycles (readCost o s) }) ∧
    ((Instr.ldy o).wf = true → exec (.ldy o) s = .next { s with
      y := readSrc o s, flags := s.flags.nz (readSrc o s), pc := s.pc + BitVec.ofNat 16 (Instr.ldy o).length,
      result := .cycles (readCost o s) })

/-- STA, STX, STY and STZ, every form: one byte is stored at the effective address, and no register but PC and no flag
changes (41_load_store_transfer.md R124 to R127; cycles: log entry 10). -/
def Obligations.StoresWriteOneByte : Prop :=
  ∀ (m : MemOperand) (s : State),
    ∀ p ∈ [(Instr.sta m, s.a), (Instr.stx m, s.x), (Instr.sty m, s.y), (Instr.stz m, (0x00 : Byte))], p.1.wf = true →
      ∃ t, exec p.1 s = .next t ∧
        { t with mem := s.mem } = { s with
          pc := s.pc + BitVec.ofNat 16 p.1.length, result := .cycles (storeCost m) } ∧
        ∀ a : Word, t.mem.read a = if a = (resolve m s).ea then p.2 else s.mem.read a

/-- The transfers: the register takes the byte, N and Z test it, but for TXS, which writes no flag
(41_load_store_transfer.md R128 to R133). -/
def Obligations.TransfersCopyTheRegister : Prop :=
  ∀ s : State,
    exec .tax s = .next { s with x := s.a, flags := s.flags.nz s.a, pc := s.pc + 1, result := .cycles 2 } ∧
    exec .tay s = .next { s with y := s.a, flags := s.flags.nz s.a, pc := s.pc + 1, result := .cycles 2 } ∧
    exec .txa s = .next { s with a := s.x, flags := s.flags.nz s.x, pc := s.pc + 1, result := .cycles 2 } ∧
    exec .tya s = .next { s with a := s.y, flags := s.flags.nz s.y, pc := s.pc + 1, result := .cycles 2 } ∧
    exec .tsx s = .next { s with x := s.sp, flags := s.flags.nz s.sp, pc := s.pc + 1, result := .cycles 2 } ∧
    exec .txs s = .next { s with sp := s.x, pc := s.pc + 1, result := .cycles 2 }

/-! ## Arithmetic -/

/-- `AddBin`: the sum modulo 256; carry exactly when it reaches 256; overflow exactly when the addends share a sign that
the result does not, which is when the signed sum leaves -128 .. 127 (42_arithmetic.md R142). -/
def Obligations.AddBinIsTheNineBitSum : Prop :=
  ∀ (a m : Byte) (c : Bool),
    (addBin a m c).r.toNat = (a.toNat + m.toNat + c.toNat) % 256 ∧
    ((addBin a m c).c = true ↔ 256 ≤ a.toNat + m.toNat + c.toNat) ∧
    ((addBin a m c).v = true ↔ a.msb = m.msb ∧ (addBin a m c).r.msb ≠ a.msb) ∧
    ((addBin a m c).v = true ↔ ¬(-128 ≤ a.toInt + m.toInt + c.toNat ∧ a.toInt + m.toInt + c.toNat ≤ 127))

/-- `SubBin`: the difference with borrow modulo 256; carry exactly when no borrow occurs; overflow exactly when the
signed difference leaves -128 .. 127 (42_arithmetic.md R145). -/
def Obligations.SubBinIsTheDifferenceWithBorrow : Prop :=
  ∀ (a m : Byte) (c : Bool),
    ((subBin a m c).r.toNat : Int) = ((a.toNat : Int) - m.toNat - (1 - c.toNat)) % 256 ∧
    ((subBin a m c).c = true ↔ m.toNat + 1 ≤ a.toNat + c.toNat) ∧
    ((subBin a m c).v = true ↔
      ¬(-128 ≤ a.toInt - m.toInt - (1 - (c.toNat : Int)) ∧ a.toInt - m.toInt - (1 - (c.toNat : Int)) ≤ 127))

/-- On decimal digits `AddDec` is decimal addition: the sum modulo 100, in decimal digits, and the hundreds carry
(42_arithmetic.md R143, the spec's decision D19; log entry 11). -/
def Obligations.AddDecAddsDecimalDigits : Prop :=
  ∀ (a m : Byte) (c : Bool), isBcd a = true → isBcd m = true →
    isBcd (addDec a m c).r = true ∧
    bcdValue (addDec a m c).r = (bcdValue a + bcdValue m + c.toNat) % 100 ∧
    ((addDec a m c).c = true ↔ 100 ≤ bcdValue a + bcdValue m + c.toNat)

/-- On decimal digits `SubDec` is decimal subtraction modulo 100 and its carry is no borrow; on all operands its carry
and overflow are the binary ones (42_arithmetic.md R146, the spec's decision D20; log entry 11). -/
def Obligations.SubDecSubtractsDecimalDigits : Prop :=
  ∀ (a m : Byte) (c : Bool),
    ((subDec a m c).c = (subBin a m c).c ∧ (subDec a m c).v = (subBin a m c).v) ∧
    (isBcd a = true → isBcd m = true →
      isBcd (subDec a m c).r = true ∧
      (bcdValue (subDec a m c).r : Int) = ((bcdValue a : Int) - bcdValue m - (1 - c.toNat)) % 100 ∧
      ((subDec a m c).c = true ↔ bcdValue m + 1 ≤ bcdValue a + c.toNat))

/-- ADC and SBC, every form: D selects the algorithm; A takes the result, N and Z test it, C and V are the algorithm's;
decimal mode costs one cycle more (42_arithmetic.md R141, R144; 70_reset_and_hazards.md R307; log entries 10 and 11). -/
def Obligations.AdcSbcStoreTheSelectedSum : Prop :=
  ∀ (o : Src) (s : State),
    ∀ p ∈ [(Instr.adc o, if s.flags.d then addDec s.a (readSrc o s) s.flags.c else addBin s.a (readSrc o s) s.flags.c),
           (Instr.sbc o, if s.flags.d then subDec s.a (readSrc o s) s.flags.c else subBin s.a (readSrc o s) s.flags.c)],
      p.1.wf = true → exec p.1 s = .next { s with
        a := p.2.r, flags := { s.flags.nz p.2.r with c := p.2.c, v := p.2.v },
        pc := s.pc + BitVec.ofNat 16 p.1.length, result := .cycles (plusIf (readCost o s) s.flags.d) }

/-- CMP, CPX and CPY, every form: C is unsigned at-least, Z is equality, N is bit 7 of the difference modulo 256,
whatever D is; no register and no memory changes (42_arithmetic.md R147 to R149). -/
def Obligations.ComparesOrderUnsigned : Prop :=
  ∀ (o : Src) (s : State),
    ∀ p ∈ [(Instr.cmp o, s.a), (Instr.cpx o, s.x), (Instr.cpy o, s.y)], p.1.wf = true →
      exec p.1 s = .next { s with
        flags := { s.flags with
          c := decide ((readSrc o s).toNat ≤ p.2.toNat), z := decide (p.2 = readSrc o s),
          n := (p.2 - readSrc o s).msb },
        pc := s.pc + BitVec.ofNat 16 p.1.length, result := .cycles (readCost o s) }

/-- INC and DEC, every form: the operand goes up or down by one modulo 256 where it stands, N and Z test it, C and V
stay (42_arithmetic.md R150, R151). -/
def Obligations.IncDecStepTheirOperand : Prop :=
  ∀ s : State,
    (∀ p ∈ [(Instr.inc .acc, s.a + 1), (Instr.dec .acc, s.a - 1)],
      exec p.1 s = .next { s with a := p.2, flags := s.flags.nz p.2, pc := s.pc + 1, result := .cycles 2 }) ∧
    (∀ m : MemOperand,
      ∀ p ∈ [(Instr.inc (.mem m), s.mem.read (resolve m s).ea + 1), (Instr.dec (.mem m), s.mem.read (resolve m s).ea - 1)],
        p.1.wf = true → ∃ t, exec p.1 s = .next t ∧
          { t with mem := s.mem } = { s with
            flags := s.flags.nz p.2, pc := s.pc + BitVec.ofNat 16 p.1.length, result := .cycles (incCost (.mem m)) } ∧
          ∀ a : Word, t.mem.read a = if a = (resolve m s).ea then p.2 else s.mem.read a)

/-- INX, INY, DEX and DEY (42_arithmetic.md R152 to R155). -/
def Obligations.IndexRegistersStep : Prop :=
  ∀ s : State,
    exec .inx s = .next { s with x := s.x + 1, flags := s.flags.nz (s.x + 1), pc := s.pc + 1, result := .cycles 2 } ∧
    exec .iny s = .next { s with y := s.y + 1, flags := s.flags.nz (s.y + 1), pc := s.pc + 1, result := .cycles 2 } ∧
    exec .dex s = .next { s with x := s.x - 1, flags := s.flags.nz (s.x - 1), pc := s.pc + 1, result := .cycles 2 } ∧
    exec .dey s = .next { s with y := s.y - 1, flags := s.flags.nz (s.y - 1), pc := s.pc + 1, result := .cycles 2 }

/-! ## Logic, bit test, shifts, bits -/

/-- AND, ORA and EOR, every form: each bit of A is the operation on the bits, N and Z test A
(43_logic_shift_bit.md R171 to R173; log entry 25). -/
def Obligations.LogicActsOnTheAccumulator : Prop :=
  ∀ (o : Src) (s : State),
    ∀ p ∈ [(Instr.and o, s.a &&& readSrc o s), (Instr.ora o, s.a ||| readSrc o s), (Instr.eor o, s.a ^^^ readSrc o s)],
      p.1.wf = true → exec p.1 s = .next { s with
        a := p.2, flags := s.flags.nz p.2, pc := s.pc + BitVec.ofNat 16 p.1.length, result := .cycles (readCost o s) }

/-- BIT: Z tests A against the operand; N and V are bits 7 and 6 of a memory operand, and the immediate form leaves them
(43_logic_shift_bit.md R174). -/
def Obligations.BitTestsAndCopies : Prop :=
  ∀ s : State,
    (∀ v : Byte, exec (.bit (.imm v)) s = .next { s with
      flags := { s.flags with z := decide (s.a &&& v = 0) }, pc := s.pc + 2, result := .cycles 2 }) ∧
    (∀ m : MemOperand, (Instr.bit (.mem m)).wf = true → exec (.bit (.mem m)) s = .next { s with
      flags := { s.flags with
        z := decide (s.a &&& s.mem.read (resolve m s).ea = 0),
        n := decide (128 ≤ (s.mem.read (resolve m s).ea).toNat),
        v := decide (64 ≤ (s.mem.read (resolve m s).ea).toNat % 128) },
      pc := s.pc + BitVec.ofNat 16 (Instr.bit (.mem m)).length, result := .cycles (readCost (.mem m) s) })

/-- The shifts and rotates as arithmetic: the byte, and C as the bit shifted out; the rotates take the old C in; N and Z
test the byte and the other flags stay (43_logic_shift_bit.md R175 to R178; for the rotates log entry 25). -/
def Obligations.ShiftsAndRotatesAsArithmetic : Prop :=
  ∀ (m : Byte) (f : Flags),
    ((aslByte m f).1.toNat = 2 * m.toNat % 256 ∧
      (aslByte m f).2 = { f.nz (aslByte m f).1 with c := decide (128 ≤ m.toNat) }) ∧
    ((lsrByte m f).1.toNat = m.toNat / 2 ∧
      (lsrByte m f).2 = { f.nz (lsrByte m f).1 with c := decide (m.toNat % 2 = 1) }) ∧
    ((rolByte m f).1.toNat = (2 * m.toNat + f.c.toNat) % 256 ∧
      (rolByte m f).2 = { f.nz (rolByte m f).1 with c := decide (128 ≤ m.toNat) }) ∧
    ((rorByte m f).1.toNat = m.toNat / 2 + 128 * f.c.toNat ∧
      (rorByte m f).2 = { f.nz (rorByte m f).1 with c := decide (m.toNat % 2 = 1) })

/-- Nine ROLs restore the byte and C, and ROR undoes ROL: the rotation is through nine bits
(43_logic_shift_bit.md R177, R178; log entry 25). -/
def Obligations.RotatesAreNineBitRotations : Prop :=
  ∀ (m : Byte) (f : Flags),
    (let p := (fun q : Byte × Flags => rolByte q.1 q.2)^[9] (m, f); p.1 = m ∧ p.2.c = f.c) ∧
    (let p := rorByte (rolByte m f).1 (rolByte m f).2; p.1 = m ∧ p.2.c = f.c)

/-- ASL, LSR, ROL and ROR, every form: the accumulator form and the memory forms share the arithmetic and differ only in
where the result is written (43_logic_shift_bit.md R175 to R178; 40_addressing_modes.md R111; cycles: log entry 10). -/
def Obligations.ShiftsWriteBackInPlace : Prop :=
  ∀ s : State,
    (∀ p ∈ [(Instr.asl .acc, aslByte s.a s.flags), (Instr.lsr .acc, lsrByte s.a s.flags),
            (Instr.rol .acc, rolByte s.a s.flags), (Instr.ror .acc, rorByte s.a s.flags)],
      exec p.1 s = .next { s with a := p.2.1, flags := p.2.2, pc := s.pc + 1, result := .cycles 2 }) ∧
    (∀ m : MemOperand,
      let v := s.mem.read (resolve m s).ea
      ∀ p ∈ [(Instr.asl (.mem m), aslByte v s.flags), (Instr.lsr (.mem m), lsrByte v s.flags),
             (Instr.rol (.mem m), rolByte v s.flags), (Instr.ror (.mem m), rorByte v s.flags)],
        p.1.wf = true → ∃ t, exec p.1 s = .next t ∧
          { t with mem := s.mem } = { s with
            flags := p.2.2, pc := s.pc + BitVec.ofNat 16 p.1.length, result := .cycles (shiftCost (.mem m) s) } ∧
          ∀ a : Word, t.mem.read a = if a = (resolve m s).ea then p.2.1 else s.mem.read a)

/-- TRB and TSB, every form: Z tests the operand under the mask A before the change, the bits of the mask are cleared
or set in memory, and no other flag and no register changes (43_logic_shift_bit.md R179, R180). -/
def Obligations.TrbTsbTestThenChange : Prop :=
  ∀ (m : MemOperand) (s : State),
    ∀ p ∈ [(Instr.trb m, s.mem.read (resolve m s).ea &&& ~~~s.a), (Instr.tsb m, s.mem.read (resolve m s).ea ||| s.a)],
      p.1.wf = true → ∃ t, exec p.1 s = .next t ∧
        { t with mem := s.mem } = { s with
          flags := { s.flags with z := decide (s.a &&& s.mem.read (resolve m s).ea = 0) },
          pc := s.pc + BitVec.ofNat 16 p.1.length, result := .cycles (incCost (.mem m)) } ∧
        ∀ a : Word, t.mem.read a = if a = (resolve m s).ea then p.2 else s.mem.read a

/-- RMBb and SMBb for each bit: that bit of the zero-page byte is cleared or set, its other bits and every other byte
stay, and no flag changes (43_logic_shift_bit.md R181, R182). -/
def Obligations.RmbSmbChangeOneBit : Prop :=
  ∀ (b : Fin 8) (z : Byte) (s : State),
    ∀ p ∈ [(rmb b z, false), (smb b z, true)], ∃ t, exec p.1 s = .next t ∧
      { t with mem := s.mem } = { s with pc := s.pc + 2, result := .cycles 5 } ∧
      (∀ j : Fin 8, (t.mem.read (zext16 z)).getLsbD j = if j = b then p.2 else (s.mem.read (zext16 z)).getLsbD j) ∧
      ∀ a : Word, a ≠ zext16 z → t.mem.read a = s.mem.read a

/-! ## Branches, jumps, call and return -/

/-- The nine relative branches: taken exactly on their condition, to the next instruction's address plus the signed
offset modulo 2^16, at one cycle more; nothing but PC changes (44_branch_jump.md R201 to R210, R217; log entries 10
and 25). -/
def Obligations.BranchesMoveRelative : Prop :=
  ∀ (r : Byte) (s : State), ∀ p ∈ branches r s.flags, ∃ t, exec p.1 s = .next t ∧
    t = { s with pc := t.pc, result := .cycles (plusIf 2 p.2) } ∧
    (t.pc.toNat : Int) = ((s.pc.toNat : Int) + 2 + (if p.2 then r.toInt else 0)) % 65536

/-- BBRb and BBSb for each bit: taken exactly when that bit of the zero-page byte is clear, or set
(44_branch_jump.md R211, R212; 40_addressing_modes.md R100). -/
def Obligations.BitBranchesTestOneBit : Prop :=
  ∀ (b : Fin 8) (z r : Byte) (s : State),
    ∀ p ∈ [(bbr b z r, !(s.mem.read (zext16 z)).getLsbD b), (bbs b z r, (s.mem.read (zext16 z)).getLsbD b)],
      ∃ t, exec p.1 s = .next t ∧
        t = { s with pc := t.pc, result := .cycles (plusIf 5 p.2) } ∧
        (t.pc.toNat : Int) = ((s.pc.toNat : Int) + 3 + (if p.2 then r.toInt else 0)) % 65536

/-- JMP: PC takes the operand word, or the little-endian word at the pointer, whose second byte lies at the next address
modulo 2^16, page end or not; nothing else changes (44_branch_jump.md R213; 40_addressing_modes.md R91, R94, R95;
20_memory.md R55; log entries 16 and 25). -/
def Obligations.JumpsTakeTheEffectiveAddress : Prop :=
  ∀ (w : Word) (s : State),
    exec (.jmp (.abs w)) s = .next { s with pc := w, result := .cycles 3 } ∧
    (∃ t, exec (.jmp (.ind w)) s = .next t ∧ t = { s with pc := t.pc, result := .cycles 6 } ∧
      t.pc.toNat = s.byteNat w.toNat + 256 * s.byteNat ((w.toNat + 1) % 65536)) ∧
    (∃ t, exec (.jmp (.iax w)) s = .next t ∧ t = { s with pc := t.pc, result := .cycles 6 } ∧
      t.pc.toNat = s.byteNat ((w.toNat + s.x.toNat) % 65536) + 256 * s.byteNat ((w.toNat + s.x.toNat + 1) % 65536))

/-- JSR: the address of its third byte is pushed, high byte first, and PC takes the operand word
(44_branch_jump.md R214; log entry 20). -/
def Obligations.JsrPushesTheReturnAddress : Prop :=
  ∀ (w : Word) (s : State), ∃ t, exec (.jsr w) s = .next t ∧
    { t with mem := s.mem } = { s with sp := s.sp - 2, pc := w, result := .cycles 6 } ∧
    ∀ a : Word, t.mem.read a =
      if a = stackAddress (s.sp - 1) then loByte (s.pc + 2)
      else if a = stackAddress s.sp then hiByte (s.pc + 2) else s.mem.read a

/-- RTS: PC is the pulled word, low byte first, plus one (44_branch_jump.md R215). -/
def Obligations.RtsPullsAndAddsOne : Prop :=
  ∀ s : State, ∃ t, exec .rts s = .next t ∧
    t = { s with sp := s.sp + 2, pc := t.pc, result := .cycles 6 } ∧
    t.pc.toNat = ((s.mem.read (stackAddress (s.sp + 1))).toNat
      + 256 * (s.mem.read (stackAddress (s.sp + 2))).toNat + 1) % 65536

/-- A call and its return: RTS after JSR continues at the instruction after the JSR with SP and every register and flag
as before the call, wherever the stack stands, and with every byte of memory as before but the two pushed
(44_branch_jump.md R214 to R216; log entry 15). -/
def Obligations.RtsReturnsAfterJsr : Prop :=
  ∀ (w : Word) (s : State), ∃ t u, exec (.jsr w) s = .next t ∧ exec .rts t = .next u ∧
    { u with mem := s.mem } = { s with pc := s.pc + 3, result := .cycles 6 } ∧
    ∀ a : Word, a ∉ storedAddresses (.jsr w) s → u.mem.read a = s.mem.read a

/-! ## Stack and flags -/

/-- PHA, PHX, PHY and PHP: the byte goes to the stack, SP goes down, no flag changes; PHP pushes the status byte with B
as held (45_stack_flag_system.md R231 to R234; log entries 14 and 15). -/
def Obligations.PushesStoreOnTheStack : Prop :=
  ∀ s : State,
    ∀ p ∈ [(Instr.pha, s.a), (Instr.phx, s.x), (Instr.phy, s.y), (Instr.php, s.flags.toByte)],
      ∃ t, exec p.1 s = .next t ∧
        { t with mem := s.mem } = { s with sp := s.sp - 1, pc := s.pc + 1, result := .cycles 3 } ∧
        ∀ a : Word, t.mem.read a = if a = stackAddress s.sp then p.2 else s.mem.read a

/-- PLA, PLX and PLY load and test the byte at the incremented SP; PLP loads all seven flags from it and drops bit 5
(45_stack_flag_system.md R235 to R238; log entries 14 and 15). -/
def Obligations.PullsLoadFromTheStack : Prop :=
  ∀ s : State, let v := s.mem.read (stackAddress (s.sp + 1))
    exec .pla s = .next { s with
      a := v, flags := s.flags.nz v, sp := s.sp + 1, pc := s.pc + 1, result := .cycles 4 } ∧
    exec .plx s = .next { s with
      x := v, flags := s.flags.nz v, sp := s.sp + 1, pc := s.pc + 1, result := .cycles 4 } ∧
    exec .ply s = .next { s with
      y := v, flags := s.flags.nz v, sp := s.sp + 1, pc := s.pc + 1, result := .cycles 4 } ∧
    exec .plp s = .next { s with
      flags := ⟨v.getLsbD 7, v.getLsbD 6, v.getLsbD 4, v.getLsbD 3, v.getLsbD 2, v.getLsbD 1, v.getLsbD 0⟩,
      sp := s.sp + 1, pc := s.pc + 1, result := .cycles 4 }

/-- What is pushed is pulled back: PLA after PHA restores A, PLP after PHP restores every flag, and SP is as before,
wherever the stack stands (45_stack_flag_system.md R231, R232, R235, R236; log entry 15). -/
def Obligations.PullsRestoreWhatWasPushed : Prop :=
  ∀ (s : State) (v : Byte) (f : Flags),
    (∃ t u, exec .pha s = .next t ∧ exec .pla { t with a := v } = .next u ∧ u.a = s.a ∧ u.sp = s.sp) ∧
    (∃ t u, exec .php s = .next t ∧ exec .plp { t with flags := f } = .next u ∧ u.flags = s.flags ∧ u.sp = s.sp)

/-- The status byte is `N V 1 B D I Z C`; loading the flags from it gives them back, and a loaded byte reads back with
bit 5 set whatever it held (10_state.md R26, the spec's decision D22; log entry 14). -/
def Obligations.StatusByteLayout : Prop :=
  (∀ f : Flags, f.toByte.toNat = 128 * f.n.toNat + 64 * f.v.toNat + 32 + 16 * f.b.toNat + 8 * f.d.toNat
    + 4 * f.i.toNat + 2 * f.z.toNat + f.c.toNat ∧ Flags.ofByte f.toByte = f) ∧
  (∀ b : Byte, (Flags.ofByte b).toByte = b ||| 0x20)

/-- CLC, CLD, CLI, CLV, SEC, SED and SEI write exactly their flag, and NOP nothing
(45_stack_flag_system.md R239 to R246). -/
def Obligations.FlagInstructionsWriteOneFlag : Prop :=
  ∀ s : State,
    ∀ p ∈ [(Instr.clc, { s.flags with c := false }), (.cld, { s.flags with d := false }),
           (.cli, { s.flags with i := false }), (.clv, { s.flags with v := false }), (.sec, { s.flags with c := true }),
           (.sed, { s.flags with d := true }), (.sei, { s.flags with i := true }), (.nop, s.flags)],
      exec p.1 s = .next { s with flags := p.2, pc := s.pc + 1, result := .cycles 2 }

/-! ## The BRK trap, its return, halting -/

/-- BRK: the address two past the opcode and the status byte with B set and I and D as before are pushed; then B and I
are 1 and D is 0, PC is the word at 0xFFFE, and nothing else changes. The vector is read after the pushes, but no push
reaches it (60_exceptions.md R272; 45_stack_flag_system.md R247; the spec's decision D8, log entry 12). -/
def Obligations.BrkTakesTheTrap : Prop :=
  ∀ s : State, ∃ t, exec .brk s = .next t ∧
    { t with mem := s.mem } = { s with
      sp := s.sp - 3, flags := { s.flags with b := true, i := true, d := false },
      pc := wordOf (s.mem.read 0xFFFE) (s.mem.read 0xFFFF), result := .cycles 7 } ∧
    ∀ a : Word, t.mem.read a =
      if a = stackAddress s.sp then hiByte (s.pc + 2)
      else if a = stackAddress (s.sp - 1) then loByte (s.pc + 2)
      else if a = stackAddress (s.sp - 2) then { s.flags with b := true }.toByte
      else s.mem.read a

/-- RTI: the flags are loaded from the first pulled byte, PC is the next two, low byte first, with no increment
(60_exceptions.md R275; 45_stack_flag_system.md R248; the spec's decision D29, log entry 13). -/
def Obligations.RtiRestoresFlagsAndPC : Prop :=
  ∀ s : State, exec .rti s = .next { s with
    flags := .ofByte (s.mem.read (stackAddress (s.sp + 1))),
    pc := wordOf (s.mem.read (stackAddress (s.sp + 2))) (s.mem.read (stackAddress (s.sp + 3))),
    sp := s.sp + 3, result := .cycles 6 }

/-- A trap and its return: RTI after BRK continues two past the BRK with SP, every register and every flag as before,
but for B, which is 1, and with every byte of memory as before but the three pushed (60_exceptions.md R272, R275; the
spec's decisions D8 and D29, log entries 12 and 13). -/
def Obligations.RtiReturnsAfterBrk : Prop :=
  ∀ s : State, ∃ t u, exec .brk s = .next t ∧ exec .rti t = .next u ∧
    { u with mem := s.mem } = { s with
      pc := s.pc + 2, flags := { s.flags with b := true }, result := .cycles 6 } ∧
    ∀ a : Word, a ∉ storedAddresses .brk s → u.mem.read a = s.mem.read a

/-- WAI and STP: HALT takes the kind, PC has passed the opcode, the outcome is `Halted`, and no register, flag or byte
of memory changes (45_stack_flag_system.md R251, R252; 60_exceptions.md R279; the spec's decision D17, log entry 7). -/
def Obligations.WaiStpHalt : Prop :=
  ∀ s : State,
    exec .wai s = .next { s with pc := s.pc + 1, halt := .wait, result := .halted .wait } ∧
    exec .stp s = .next { s with pc := s.pc + 1, halt := .stop, result := .halted .stop }

/-! ## Whole-machine rules -/

/-- A flag changes in a step only if the rule of the executed instruction lists it; a decode failure and a step taken
while halted change no flag (10_state.md R25, R28). -/
def Obligations.FlagsChangeOnlyByTheirRules : Prop :=
  (∀ (i : Instr) (s t : State), exec i s = .next t → (flagsWritten i).keptOutside s.flags t.flags) ∧
  (∀ (s t : State) (op : Byte), step s = .fault (.decodeError op t) → t.flags = s.flags) ∧
  (∀ s t : State, s.halt ≠ .run → step s = .next t → t.flags = s.flags)

/-- The automatic test: after an instruction that performs SetNZ, N is bit 7 of the byte it stored or compared and Z is
whether that byte is 0; every other instruction leaves N and Z alone, but for BIT, TRB, TSB (Z only), PLP and RTI, which
have rules of their own (10_state.md R27). -/
def Obligations.SetNZTestsTheWrittenByte : Prop :=
  ∀ (i : Instr) (s t : State), exec i s = .next t →
    match testedByte i s t with
    | some v => t.flags.n = decide (128 ≤ v.toNat) ∧ t.flags.z = decide (v.toNat = 0)
    | none =>
      match i with
      | .bit _ | .plp | .rti => True
      | .trb _ | .tsb _ => t.flags.n = s.flags.n
      | _ => t.flags.n = s.flags.n ∧ t.flags.z = s.flags.z

/-- A, X, Y and SP change only by the instructions that write them, HALT only by WAI and STP
(10_state.md R20, R21, R22, R24, R29). -/
def Obligations.RegistersChangeOnlyByTheirWriters : Prop :=
  ∀ (i : Instr) (s t : State), exec i s = .next t →
    (writesA i = false → t.a = s.a) ∧ (writesX i = false → t.x = s.x) ∧ (writesY i = false → t.y = s.y) ∧
    (writesSP i = false → t.sp = s.sp) ∧ (i ≠ .wai → i ≠ .stp → t.halt = s.halt)

/-- Every byte of memory outside the addresses an instruction stores to is unchanged: the frame of memory over the whole
instruction set (20_memory.md R66). -/
def Obligations.MemoryChangesOnlyWhereStored : Prop :=
  ∀ (i : Instr) (s t : State), exec i s = .next t → ∀ a : Word, a ∉ storedAddresses i s → t.mem.read a = s.mem.read a

/-- I and B gate nothing: but for PHP and BRK, which push them, an instruction does the same whatever they are. D is
read by ADC and SBC alone beside those (10_state.md R25; 42_arithmetic.md R156; 60_exceptions.md R273). -/
def Obligations.InertFlagsDoNotInfluence : Prop :=
  ∀ (i : Instr) (s t : State) (v : Bool), i ≠ .php → i ≠ .brk → exec i s = .next t →
    (∃ u, exec i { s with flags := { s.flags with i := v } } = .next u ∧
      { u with flags := { u.flags with i := t.flags.i } } = t) ∧
    (∃ u, exec i { s with flags := { s.flags with b := v } } = .next u ∧
      { u with flags := { u.flags with b := t.flags.b } } = t) ∧
    ((∀ o, i ≠ .adc o) → (∀ o, i ≠ .sbc o) →
      ∃ u, exec i { s with flags := { s.flags with d := v } } = .next u ∧
        { u with flags := { u.flags with d := t.flags.d } } = t)

/-! ## Reset, the host, the invariant -/

/-- `Reset` from any state gives the stated values, SP the open parameter; it keeps memory, reads nothing else, and
twice is once (70_reset_and_hazards.md R300; 10_state.md R31). That the model's own reset state takes SP = 0xFF is log
entry 1. -/
def Obligations.ResetGivesTheStatedValues : Prop :=
  (∀ (p : Byte) (s : State), let t := hostMove (.reset p) s
    t.a = 0 ∧ t.x = 0 ∧ t.y = 0 ∧ t.sp = p ∧ t.pc = 0 ∧ t.flags.toByte = 0x20 ∧ t.halt = .run ∧ t.mem = s.mem ∧
    t.result = .nothing ∧ hostMove (.reset p) t = t) ∧
  (∀ (p : Byte) (s s' : State), s.mem = s'.mem → hostMove (.reset p) s = hostMove (.reset p) s') ∧
  State.reset = State.resetWith 0xFF []

/-- The host's other moves: `SetPC` writes PC alone, a poke writes one byte alone, the collaborator's reset makes every
byte 0 and touches no register (10_state.md R33, R34; 20_memory.md R65). -/
def Obligations.HostMovesTouchNothingElse : Prop :=
  ∀ (s : State) (v : Word) (a : Word) (b : Byte),
    hostMove (.setPC v) s = { s with pc := v } ∧
    ({ hostMove (.poke a b) s with mem := s.mem } = s ∧
      ∀ k : Word, (hostMove (.poke a b) s).mem.read k = if k = a then b else s.mem.read k) ∧
    ({ hostMove .clearMemory s with mem := s.mem } = s ∧ ∀ k : Word, (hostMove .clearMemory s).mem.read k = 0)

/-- Only `Reset` ends a halt: over any session of steps and host moves without one, HALT keeps its value, and so do A,
X, Y, SP and the flags (10_state.md R29; 60_exceptions.md R279, R284; the spec's decision D17, log entry 7). -/
def Obligations.OnlyResetEndsAHalt : Prop :=
  ∀ (es : List Event) (s : State), s.halt ≠ .run → (∀ e ∈ es, e.isReset = false) →
    (session es s).halt = s.halt ∧ (session es s).a = s.a ∧ (session es s).x = s.x ∧ (session es s).y = s.y ∧
    (session es s).sp = s.sp ∧ (session es s).flags = s.flags

/-- The model's invariant holds after reset, whatever `SP_RESET` is. The invariant is the model's own: the canonical form
of memory (log entry 2) and a result port that agrees with HALT (log entry 3). So are the SP of `State.reset` (log
entry 1) and its empty memory (log entry 2). Each is a DESIGN CHOICE. -/
def Obligations.ResetMeetsTheInvariant : Prop :=
  State.reset.Inv ∧ ∀ p : Byte, (State.resetWith p []).Inv

/-- Every step keeps the model's invariant, from every state that has it, reached or not: memory stays canonical (the
model's form, log entry 2, DESIGN CHOICE), and the result port, which is the model's field (log entry 3, DESIGN CHOICE),
agrees with HALT, with a reported count between 2 and 7 (of the counts of 70_reset_and_hazards.md R304 to R308, log
entry 10). -/
def Obligations.StepKeepsTheInvariant : Prop :=
  ∀ s t : State, s.Inv → step s = .next t → t.Inv

/-- Every session of steps and of the host's moves (10_state.md R34) keeps the model's invariant: memory canonical (log
entry 2, DESIGN CHOICE) and the result port in agreement with HALT (log entry 3, DESIGN CHOICE). After a decode failure
the session resumes from the state that the fault carries (60_exceptions.md R271; log entry 4, DEDUCED). -/
def Obligations.SessionsKeepTheInvariant : Prop :=
  ∀ (es : List Event) (s : State), s.Inv → (session es s).Inv
end

