-- ==== Sys2Proof/Laws/State.lean ====
section
/-! SUPPORT. One lemma for each field of the state after each update. -/

namespace Sys2Proof.Machine.State

section
variable (s : State) (w : Byte)
@[simp] theorem withA_a : (s.withA w).a = w := rfl
@[simp] theorem withA_x : (s.withA w).x = s.x := rfl
@[simp] theorem withA_y : (s.withA w).y = s.y := rfl
@[simp] theorem withA_sp : (s.withA w).sp = s.sp := rfl
@[simp] theorem withA_pc : (s.withA w).pc = s.pc := rfl
@[simp] theorem withA_flags : (s.withA w).flags = s.flags := rfl
@[simp] theorem withA_halt : (s.withA w).halt = s.halt := rfl
@[simp] theorem withA_mem : (s.withA w).mem = s.mem := rfl
@[simp] theorem withA_result : (s.withA w).result = s.result := rfl
end

section
variable (s : State) (w : Byte)
@[simp] theorem withX_a : (s.withX w).a = s.a := rfl
@[simp] theorem withX_x : (s.withX w).x = w := rfl
@[simp] theorem withX_y : (s.withX w).y = s.y := rfl
@[simp] theorem withX_sp : (s.withX w).sp = s.sp := rfl
@[simp] theorem withX_pc : (s.withX w).pc = s.pc := rfl
@[simp] theorem withX_flags : (s.withX w).flags = s.flags := rfl
@[simp] theorem withX_halt : (s.withX w).halt = s.halt := rfl
@[simp] theorem withX_mem : (s.withX w).mem = s.mem := rfl
@[simp] theorem withX_result : (s.withX w).result = s.result := rfl
end

section
variable (s : State) (w : Byte)
@[simp] theorem withY_a : (s.withY w).a = s.a := rfl
@[simp] theorem withY_x : (s.withY w).x = s.x := rfl
@[simp] theorem withY_y : (s.withY w).y = w := rfl
@[simp] theorem withY_sp : (s.withY w).sp = s.sp := rfl
@[simp] theorem withY_pc : (s.withY w).pc = s.pc := rfl
@[simp] theorem withY_flags : (s.withY w).flags = s.flags := rfl
@[simp] theorem withY_halt : (s.withY w).halt = s.halt := rfl
@[simp] theorem withY_mem : (s.withY w).mem = s.mem := rfl
@[simp] theorem withY_result : (s.withY w).result = s.result := rfl
end

section
variable (s : State) (w : Byte)
@[simp] theorem withSP_a : (s.withSP w).a = s.a := rfl
@[simp] theorem withSP_x : (s.withSP w).x = s.x := rfl
@[simp] theorem withSP_y : (s.withSP w).y = s.y := rfl
@[simp] theorem withSP_sp : (s.withSP w).sp = w := rfl
@[simp] theorem withSP_pc : (s.withSP w).pc = s.pc := rfl
@[simp] theorem withSP_flags : (s.withSP w).flags = s.flags := rfl
@[simp] theorem withSP_halt : (s.withSP w).halt = s.halt := rfl
@[simp] theorem withSP_mem : (s.withSP w).mem = s.mem := rfl
@[simp] theorem withSP_result : (s.withSP w).result = s.result := rfl
end

section
variable (s : State) (w : Word)
@[simp] theorem withPC_a : (s.withPC w).a = s.a := rfl
@[simp] theorem withPC_x : (s.withPC w).x = s.x := rfl
@[simp] theorem withPC_y : (s.withPC w).y = s.y := rfl
@[simp] theorem withPC_sp : (s.withPC w).sp = s.sp := rfl
@[simp] theorem withPC_pc : (s.withPC w).pc = w := rfl
@[simp] theorem withPC_flags : (s.withPC w).flags = s.flags := rfl
@[simp] theorem withPC_halt : (s.withPC w).halt = s.halt := rfl
@[simp] theorem withPC_mem : (s.withPC w).mem = s.mem := rfl
@[simp] theorem withPC_result : (s.withPC w).result = s.result := rfl
end

section
variable (s : State) (w : Flags)
@[simp] theorem withFlags_a : (s.withFlags w).a = s.a := rfl
@[simp] theorem withFlags_x : (s.withFlags w).x = s.x := rfl
@[simp] theorem withFlags_y : (s.withFlags w).y = s.y := rfl
@[simp] theorem withFlags_sp : (s.withFlags w).sp = s.sp := rfl
@[simp] theorem withFlags_pc : (s.withFlags w).pc = s.pc := rfl
@[simp] theorem withFlags_flags : (s.withFlags w).flags = w := rfl
@[simp] theorem withFlags_halt : (s.withFlags w).halt = s.halt := rfl
@[simp] theorem withFlags_mem : (s.withFlags w).mem = s.mem := rfl
@[simp] theorem withFlags_result : (s.withFlags w).result = s.result := rfl
end

section
variable (s : State) (w : RunState)
@[simp] theorem withHalt_a : (s.withHalt w).a = s.a := rfl
@[simp] theorem withHalt_x : (s.withHalt w).x = s.x := rfl
@[simp] theorem withHalt_y : (s.withHalt w).y = s.y := rfl
@[simp] theorem withHalt_sp : (s.withHalt w).sp = s.sp := rfl
@[simp] theorem withHalt_pc : (s.withHalt w).pc = s.pc := rfl
@[simp] theorem withHalt_flags : (s.withHalt w).flags = s.flags := rfl
@[simp] theorem withHalt_halt : (s.withHalt w).halt = w := rfl
@[simp] theorem withHalt_mem : (s.withHalt w).mem = s.mem := rfl
@[simp] theorem withHalt_result : (s.withHalt w).result = s.result := rfl
end

section
variable (s : State) (w : Memory)
@[simp] theorem withMem_a : (s.withMem w).a = s.a := rfl
@[simp] theorem withMem_x : (s.withMem w).x = s.x := rfl
@[simp] theorem withMem_y : (s.withMem w).y = s.y := rfl
@[simp] theorem withMem_sp : (s.withMem w).sp = s.sp := rfl
@[simp] theorem withMem_pc : (s.withMem w).pc = s.pc := rfl
@[simp] theorem withMem_flags : (s.withMem w).flags = s.flags := rfl
@[simp] theorem withMem_halt : (s.withMem w).halt = s.halt := rfl
@[simp] theorem withMem_mem : (s.withMem w).mem = w := rfl
@[simp] theorem withMem_result : (s.withMem w).result = s.result := rfl
end

section
variable (s : State) (w : Result)
@[simp] theorem withResult_a : (s.withResult w).a = s.a := rfl
@[simp] theorem withResult_x : (s.withResult w).x = s.x := rfl
@[simp] theorem withResult_y : (s.withResult w).y = s.y := rfl
@[simp] theorem withResult_sp : (s.withResult w).sp = s.sp := rfl
@[simp] theorem withResult_pc : (s.withResult w).pc = s.pc := rfl
@[simp] theorem withResult_flags : (s.withResult w).flags = s.flags := rfl
@[simp] theorem withResult_halt : (s.withResult w).halt = s.halt := rfl
@[simp] theorem withResult_mem : (s.withResult w).mem = s.mem := rfl
@[simp] theorem withResult_result : (s.withResult w).result = w := rfl
end

/-- The later of two writes of one field stays. -/
@[simp] theorem withA_withA (s : State) (w w' : Byte) : (s.withA w).withA w' = s.withA w' := rfl
/-- The later of two writes of one field stays. -/
@[simp] theorem withX_withX (s : State) (w w' : Byte) : (s.withX w).withX w' = s.withX w' := rfl
/-- The later of two writes of one field stays. -/
@[simp] theorem withY_withY (s : State) (w w' : Byte) : (s.withY w).withY w' = s.withY w' := rfl
/-- The later of two writes of one field stays. -/
@[simp] theorem withSP_withSP (s : State) (w w' : Byte) : (s.withSP w).withSP w' = s.withSP w' := rfl
/-- The later of two writes of one field stays. -/
@[simp] theorem withPC_withPC (s : State) (w w' : Word) : (s.withPC w).withPC w' = s.withPC w' := rfl
/-- The later of two writes of one field stays. -/
@[simp] theorem withFlags_withFlags (s : State) (w w' : Flags) : (s.withFlags w).withFlags w' = s.withFlags w' := rfl
/-- The later of two writes of one field stays. -/
@[simp] theorem withHalt_withHalt (s : State) (w w' : RunState) : (s.withHalt w).withHalt w' = s.withHalt w' := rfl
/-- The later of two writes of one field stays. -/
@[simp] theorem withMem_withMem (s : State) (w w' : Memory) : (s.withMem w).withMem w' = s.withMem w' := rfl
/-- The later of two writes of one field stays. -/
@[simp] theorem withResult_withResult (s : State) (w w' : Result) : (s.withResult w).withResult w' = s.withResult w' := rfl

end Sys2Proof.Machine.State
end

