-- ==== Sys2Proof/Laws/Memory.lean ====
section
/-! SUPPORT. What a read gives after a write, cell by cell, and that every memory operation keeps the canonical form. -/

namespace Sys2Proof.Machine.Memory

theorem lookup_insertCell_self (m : Memory) (k : Nat) (v : Byte) (h : ∀ c ∈ m, c.1 ≠ k) :
    Memory.lookup (Memory.insertCell m k v) k = v := by
  induction m with
  | nil => simp [insertCell, lookup]
  | cons c rest ih =>
    obtain ⟨j, w⟩ := c
    have hj : j ≠ k := h (j, w) List.mem_cons_self
    unfold insertCell
    split
    · simp [lookup]
    · simp only [lookup, if_neg hj]
      exact ih fun c hc => h c (List.mem_cons_of_mem _ hc)

theorem lookup_insertCell_other (m : Memory) {k l : Nat} (v : Byte) (h : k ≠ l) :
    Memory.lookup (Memory.insertCell m k v) l = Memory.lookup m l := by
  induction m with
  | nil => simp [insertCell, lookup, h]
  | cons c rest ih =>
    obtain ⟨j, w⟩ := c
    unfold insertCell
    split
    · simp [lookup, h]
    · simp only [lookup, ih]

theorem lookup_filter_self (m : Memory) (k : Nat) :
    Memory.lookup (m.filter fun c => c.1 != k) k = Config.unlistedByte := by
  induction m with
  | nil => rfl
  | cons c rest ih =>
    obtain ⟨j, w⟩ := c
    by_cases hj : j = k
    · simp [hj, ih]
    · simp [hj, lookup, ih]

theorem lookup_filter_other (m : Memory) {k l : Nat} (h : k ≠ l) :
    Memory.lookup (m.filter fun c => c.1 != k) l = Memory.lookup m l := by
  induction m with
  | nil => rfl
  | cons c rest ih =>
    obtain ⟨j, w⟩ := c
    by_cases hj : j = k
    · subst hj; simp [lookup, h, ih]
    · simp [hj, lookup, ih]

/-- A read after a write to the same address gives the byte written. -/
@[simp] theorem read_write_self (m : Memory) (a : Word) (v : Byte) : (m.write a v).read a = v := by
  unfold read write
  split
  · rename_i hv
    rw [hv]
    exact lookup_filter_self m a.toNat
  · exact lookup_insertCell_self _ _ _ fun c hc => by simpa using (List.mem_filter.mp hc).2

/-- A write leaves every other address as it was. -/
theorem read_write_other (m : Memory) {a b : Word} (v : Byte) (h : b ≠ a) : (m.write a v).read b = m.read b := by
  have hn : a.toNat ≠ b.toNat := fun e => h (BitVec.eq_of_toNat_eq e.symm)
  unfold read write
  split
  · exact lookup_filter_other m hn
  · exact (lookup_insertCell_other _ v hn).trans (lookup_filter_other m hn)

/-- A write, as a change of the read function. -/
theorem read_write (m : Memory) (a b : Word) (v : Byte) : (m.write a v).read b = if b = a then v else m.read b := by
  split
  · rename_i h; rw [h, read_write_self]
  · rename_i h; exact read_write_other m v h

/-- Every cell of a canonical memory lies at or above its lower bound. -/
theorem le_of_mem {low : Nat} {m : Memory} (h : Memory.wfFrom low m = true) : ∀ c ∈ m, low ≤ c.1 := by
  induction m generalizing low with
  | nil => simp
  | cons c rest ih =>
    obtain ⟨j, w⟩ := c
    simp only [wfFrom, Bool.and_eq_true, decide_eq_true_eq] at h
    intro c hc
    rcases List.mem_cons.mp hc with rfl | hc
    · exact h.1.1.1
    · exact Nat.le_trans h.1.1.1 (Nat.le_of_succ_le (ih h.2 c hc))

theorem wfFrom_mono {low low' : Nat} {m : Memory} (hl : low' ≤ low) (h : Memory.wfFrom low m = true) :
    Memory.wfFrom low' m = true := by
  cases m with
  | nil => rfl
  | cons c rest =>
    obtain ⟨j, w⟩ := c
    simp only [wfFrom, Bool.and_eq_true, decide_eq_true_eq] at h ⊢
    exact ⟨⟨⟨Nat.le_trans hl h.1.1.1, h.1.1.2⟩, h.1.2⟩, h.2⟩

theorem wfFrom_filter {low : Nat} {m : Memory} (p : Host.Cell → Bool) (h : Memory.wfFrom low m = true) :
    Memory.wfFrom low (m.filter p) = true := by
  induction m generalizing low with
  | nil => rfl
  | cons c rest ih =>
    obtain ⟨j, w⟩ := c
    simp only [wfFrom, Bool.and_eq_true, decide_eq_true_eq] at h
    rw [List.filter_cons]
    split
    · simp only [wfFrom, Bool.and_eq_true, decide_eq_true_eq]
      exact ⟨h.1, ih h.2⟩
    · exact wfFrom_mono (Nat.le_succ_of_le h.1.1.1) (ih h.2)

theorem wfFrom_insertCell {low : Nat} {m : Memory} {k : Nat} {v : Byte} (hm : Memory.wfFrom low m = true)
    (hk : ∀ c ∈ m, c.1 ≠ k) (hlow : low ≤ k) (hlt : k < 65536) (hv : v ≠ Config.unlistedByte) :
    Memory.wfFrom low (Memory.insertCell m k v) = true := by
  induction m generalizing low with
  | nil => simp [insertCell, wfFrom, hlow, hlt, hv]
  | cons c rest ih =>
    obtain ⟨j, w⟩ := c
    have hj : j ≠ k := hk (j, w) List.mem_cons_self
    simp only [wfFrom, Bool.and_eq_true, decide_eq_true_eq] at hm
    unfold insertCell
    split
    · rename_i hkj
      simp only [wfFrom, Bool.and_eq_true, decide_eq_true_eq, bne_iff_ne, ne_eq]
      exact ⟨⟨⟨hlow, hlt⟩, hv⟩, ⟨⟨hkj, hm.1.1.2⟩, by simpa using hm.1.2⟩, hm.2⟩
    · rename_i hkj
      simp only [wfFrom, Bool.and_eq_true, decide_eq_true_eq]
      exact ⟨hm.1, ih hm.2 (fun c hc => hk c (List.mem_cons_of_mem _ hc)) (by omega)⟩

/-- Writing keeps the canonical form. -/
theorem write_keeps_wf {m : Memory} (h : m.wf = true) (a : Word) (v : Byte) : (m.write a v).wf = true := by
  unfold write wf
  split
  · exact wfFrom_filter _ h
  · rename_i hv
    refine wfFrom_insertCell (wfFrom_filter _ h) ?_ (Nat.zero_le _) a.isLt hv
    intro c hc
    simpa using (List.mem_filter.mp hc).2

theorem writeBytes_keeps_wf (bytes : List Byte) {m : Memory} (h : m.wf = true) (a : Word) :
    (m.writeBytes a bytes).wf = true := by
  induction bytes generalizing m a with
  | nil => exact h
  | cons v rest ih => exact ih (write_keeps_wf h a v) (a + 1)

theorem empty_wf : Memory.wf [] = true := rfl

end Sys2Proof.Machine.Memory
end

