-- ==== Sys2Proof/Laws/Ops.lean ====
section
/-! SUPPORT. For each shared operation, once, everything it does: as an equation over the state's fields, and the one
outcome an ending can give. -/

namespace Sys2Proof.Machine

theorem State.loadA_eq (s : State) (v : Byte) : s.loadA v = { s with a := v, flags := s.flags.setNZ v } := rfl

theorem State.loadX_eq (s : State) (v : Byte) : s.loadX v = { s with x := v, flags := s.flags.setNZ v } := rfl

theorem State.loadY_eq (s : State) (v : Byte) : s.loadY v = { s with y := v, flags := s.flags.setNZ v } := rfl

theorem State.past_eq (s : State) (i : Instr) : s.past i = { s with pc := s.pc + BitVec.ofNat 16 i.length } := rfl

theorem State.store_eq (s : State) (a : Word) (v : Byte) : s.store a v = { s with mem := s.mem.write a v } := rfl

theorem State.push_eq (s : State) (v : Byte) :
    s.push v = { s with mem := s.mem.write (stackAddress s.sp) v, sp := s.sp - 1 } := rfl

theorem State.pop_eq (s : State) : s.pop = { s with sp := s.sp + 1 } := rfl

theorem State.pushWord_eq (s : State) (w : Word) :
    s.pushWord w = { s with
      mem := (s.mem.write (stackAddress s.sp) (hiByte w)).write (stackAddress (s.sp - 1)) (loByte w),
      sp := s.sp - 1 - 1 } := rfl

/-- What taking the BRK trap does, field by field. -/
theorem State.trapEntry_eq (s : State) :
    s.trapEntry = { s with
      mem := ((s.pushWord (s.pc + 1)).push s.flags.stackedByBrk.toByte).mem,
      sp := s.sp - 1 - 1 - 1,
      flags := s.flags.afterBrk,
      pc := ((s.pushWord (s.pc + 1)).push s.flags.stackedByBrk.toByte).mem.read16 brkVector } := by
  simp only [State.trapEntry, State.pushWord_eq, State.push_eq, State.withFlags, State.withPC]

/-- What the return does, field by field. -/
theorem State.trapReturn_eq (s : State) :
    s.trapReturn = { s with sp := s.sp + 1 + 1 + 1, flags := .ofByte s.top, pc := s.pop.topWord } := rfl

theorem complete_eq (i : Instr) (extra : Nat) (t : State) :
    complete i extra t = .next { t with result := .cycles (baseCycles i + extra) } := rfl

/-- A completed step answers a next state, and only the one it was given with its count. -/
theorem complete_next {i : Instr} {extra : Nat} {t u : State} (h : complete i extra t = .next u) :
    u = t.withResult (.cycles (baseCycles i + extra)) := (Host.Outcome.next.inj h).symm

theorem haltWith_next {k : HaltKind} {t u : State} (h : haltWith k t = .next u) :
    u = (t.withHalt k.runState).withResult (.halted k) := (Host.Outcome.next.inj h).symm

theorem stayHalted_next {k : HaltKind} {s u : State} (h : stayHalted k s = .next u) :
    u = s.withResult (.halted k) := (Host.Outcome.next.inj h).symm

/-- The byte pulled after a push is the byte pushed, and SP is back. -/
theorem State.pop_push (s : State) (v : Byte) : (s.push v).top = v ∧ (s.push v).pop.sp = s.sp := by
  constructor
  · simp [State.top, State.push, State.store]
  · simp [State.pop, State.push]

@[simp] theorem Flags.setNZ_n (f : Flags) (v : Byte) : (f.setNZ v).n = v.getLsbD 7 := rfl
@[simp] theorem Flags.setNZ_z (f : Flags) (v : Byte) : (f.setNZ v).z = (v == 0) := rfl
@[simp] theorem Flags.setNZ_v (f : Flags) (v : Byte) : (f.setNZ v).v = f.v := rfl
@[simp] theorem Flags.setNZ_b (f : Flags) (v : Byte) : (f.setNZ v).b = f.b := rfl
@[simp] theorem Flags.setNZ_d (f : Flags) (v : Byte) : (f.setNZ v).d = f.d := rfl
@[simp] theorem Flags.setNZ_i (f : Flags) (v : Byte) : (f.setNZ v).i = f.i := rfl
@[simp] theorem Flags.setNZ_c (f : Flags) (v : Byte) : (f.setNZ v).c = f.c := rfl

theorem zext16_toNat (b : Byte) : (zext16 b).toNat = b.toNat := by
  have := b.isLt
  simp only [zext16, BitVec.toNat_setWidth]
  omega

theorem wordOf_toNat (lo hi : Byte) : (wordOf lo hi).toNat = hi.toNat * 256 + lo.toNat := by
  have := lo.isLt
  simp only [wordOf, BitVec.toNat_append, Nat.shiftLeft_eq]
  rw [← Nat.mul_comm, ← Nat.two_pow_add_eq_or_of_lt (by omega)]

theorem wordOf_bytes (w : Word) : wordOf (loByte w) (hiByte w) = w := by
  apply BitVec.eq_of_toNat_eq
  have := w.isLt
  rw [wordOf_toNat]
  simp only [loByte, hiByte, BitVec.toNat_setWidth, BitVec.toNat_ushiftRight, Nat.shiftRight_eq_div_pow]
  omega

theorem loByte_wordOf (lo hi : Byte) : loByte (wordOf lo hi) = lo := by
  apply BitVec.eq_of_toNat_eq
  have := lo.isLt
  simp only [loByte, BitVec.toNat_setWidth, wordOf_toNat]
  omega

theorem hiByte_wordOf (lo hi : Byte) : hiByte (wordOf lo hi) = hi := by
  apply BitVec.eq_of_toNat_eq
  have := lo.isLt
  have := hi.isLt
  simp only [hiByte, BitVec.toNat_setWidth, BitVec.toNat_ushiftRight, wordOf_toNat, Nat.shiftRight_eq_div_pow]
  omega

end Sys2Proof.Machine
end

