-- ==== Sys2Proof/Laws/Operands.lean ====
section
/-! SUPPORT. What each shape of instruction answers, and the numbers behind the resolvers. -/

namespace Sys2Proof.Machine

@[simp] theorem readSrc_imm (v : Byte) (s : State) : readSrc (.imm v) s = v := rfl

@[simp] theorem readSrc_mem (m : MemOperand) (s : State) : readSrc (.mem m) s = s.mem.read (resolve m s).ea := rfl

theorem withOperand_eq (i : Instr) (o : Src) (extra : Nat) (act : Byte → State → State) (s : State) :
    withOperand i o extra act s
      = .next ((act (readSrc o s) (s.past i)).withResult
          (.cycles (baseCycles i + (pageExtra i (srcCrossed o s) + extra)))) := rfl

theorem storeTo_eq (i : Instr) (m : MemOperand) (v : Byte) (s : State) :
    storeTo i m v s
      = .next (((s.past i).store (resolve m s).ea v).withResult
          (.cycles (baseCycles i + pageExtra i (resolve m s).crossed))) := rfl

theorem modify_acc_eq (i : Instr) (f : Byte → Flags → Byte × Flags) (s : State) :
    modify i .acc f s
      = .next ((((s.past i).withA (f s.a s.flags).1).withFlags (f s.a s.flags).2).withResult
          (.cycles (baseCycles i + pageExtra i false))) := rfl

theorem modify_mem_eq (i : Instr) (m : MemOperand) (f : Byte → Flags → Byte × Flags) (s : State) :
    modify i (.mem m) f s
      = .next ((((s.past i).store (resolve m s).ea (f (s.mem.read (resolve m s).ea) s.flags).1).withFlags
          (f (s.mem.read (resolve m s).ea) s.flags).2).withResult
          (.cycles (baseCycles i + pageExtra i (resolve m s).crossed))) := rfl

theorem implied_eq (i : Instr) (act : State → State) (s : State) :
    implied i act s = .next ((act (s.past i)).withResult (.cycles (baseCycles i))) := rfl

/-- A branch answers a next state either way. -/
theorem branchIf_eq (i : Instr) (cond : Bool) (r : Byte) (s : State) :
    branchIf i cond r s
      = .next (((s.past i).withPC ((s.past i).pc + (if cond then sext16 r else 0))).withResult
          (.cycles (baseCycles i + (if cond then 1 else 0)))) := by
  cases cond
  · simp [branchIf, complete, State.past]
  · rfl

theorem branchOnBit_eq (i : Instr) (b : Nat) (want : Bool) (z r : Byte) (s : State) :
    branchOnBit i b want z r s = branchIf i ((s.mem.read (zext16 z)).getLsbD b == want) r s := rfl

theorem pageExtra_false (i : Instr) : pageExtra i false = 0 := by simp [pageExtra]

theorem pageExtra_le (i : Instr) (crossed : Bool) : pageExtra i crossed ≤ 1 := by
  unfold pageExtra; split <;> omega

theorem decimalExtra_le (d : Bool) : decimalExtra d ≤ 1 := by
  unfold decimalExtra; split <;> omega

theorem hiByte_toNat (w : Word) : (hiByte w).toNat = w.toNat / 256 := by
  have := w.isLt
  simp only [hiByte, BitVec.toNat_setWidth, BitVec.toNat_ushiftRight, Nat.shiftRight_eq_div_pow]
  omega

theorem loByte_toNat (w : Word) : (loByte w).toNat = w.toNat % 256 := by
  simp [loByte, BitVec.toNat_setWidth]

theorem pagecross_eq (base ea : Word) : pagecross base ea = (base.toNat / 256 != ea.toNat / 256) := by
  rw [Bool.eq_iff_iff]
  simp only [pagecross, bne_iff_ne, ne_eq, ← hiByte_toNat, BitVec.toNat_inj]

theorem indexedHandle_ea_toNat (base : Word) (index : Byte) :
    (indexedHandle base index).ea.toNat = (base.toNat + index.toNat) % 65536 := by
  simp [indexedHandle, BitVec.toNat_add, zext16_toNat]

theorem read16ZP_toNat (m : Memory) (z : Byte) :
    (m.read16ZP z).toNat = (m.lookup z.toNat).toNat + 256 * (m.lookup ((z.toNat + 1) % 256)).toNat := by
  simp only [Memory.read16ZP, wordOf_toNat, Memory.read, zext16_toNat, BitVec.toNat_add]
  simp [Nat.mul_comm, Nat.add_comm]

end Sys2Proof.Machine
end

