-- ==== Sys2Proof/Laws/Decode.lean ====
section
/-! SUPPORT. What the decoder answers for each format of cell, and that it and the fetch agree. -/

namespace Sys2Proof

theorem decode_unassigned {op : Byte} {rest : List Byte} (h : cellOf op = .unassigned) :
    decode (op :: rest) = .ok (.unassigned op, rest) := by
  rw [decode, h, Cell.read]

theorem decode_f1 {op : Byte} {i : Instr} {rest : List Byte} (h : cellOf op = .f1 i) :
    decode (op :: rest) = .ok (i, rest) := by
  rw [decode, h, Cell.read]

theorem decode_f2 {op d : Byte} {mk : Byte → Instr} {rest : List Byte} (h : cellOf op = .f2 mk) :
    decode (op :: d :: rest) = .ok (mk d, rest) := by
  rw [decode, h, Cell.read]

/-- An operand word is read back from its two bytes. -/
theorem decode_f3 {op : Byte} {w : Word} {mk : Word → Instr} {rest : List Byte} (h : cellOf op = .f3 mk) :
    decode (op :: loByte w :: hiByte w :: rest) = .ok (mk w, rest) := by
  rw [decode, h, Cell.read, Machine.wordOf_bytes]

theorem decode_f3r {op z r : Byte} {mk : Byte → Byte → Instr} {rest : List Byte} (h : cellOf op = .f3r mk) :
    decode (op :: z :: r :: rest) = .ok (mk z r, rest) := by
  rw [decode, h, Cell.read]

/-- Three bytes are enough for every instruction: the list decoder reads what the fetch reads. -/
theorem decode_three (op b1 b2 : Byte) (rest : List Byte) :
    ∃ tail, decode (op :: b1 :: b2 :: rest) = .ok ((cellOf op).instr op b1 b2, tail) := by
  rw [decode]
  cases cellOf op <;> exact ⟨_, rfl⟩

namespace Machine

/-- The instruction at PC is what the bytes at PC decode to. -/
theorem State.fetch_decodes (s : State) : ∃ tail, decode s.codeBytes = .ok (s.fetch, tail) :=
  decode_three _ _ _ _

end Machine

end Sys2Proof
end

