-- ==== Sys2Proof/Laws/PerInstr.lean ====
section
/-! SUPPORT. A fact of every instruction as syntax, constructor by constructor: with its opcode byte, its operand bytes
are as many as its length says (30_encoding.md R70). -/

namespace Sys2Proof.Laws.EncodedLength

/-- One opcode byte and the operand bytes make the length. -/
def Statement (i : Instr) : Prop := 1 + i.operands.length = i.length

theorem ofMem (m : MemOperand) : m.bytes.length = m.mode.operandBytes := by cases m <;> rfl

theorem ofSrc (o : Src) : o.bytes.length = o.mode.operandBytes := by
  cases o with
  | imm v => rfl
  | mem m => exact ofMem m

theorem ofRmw (o : Rmw) : o.bytes.length = o.mode.operandBytes := by
  cases o with
  | acc => rfl
  | mem m => exact ofMem m

theorem ofTarget (t : Target) : t.bytes.length = t.mode.operandBytes := by cases t <;> rfl

theorem lda (o : Src) : Statement (.lda o) := congrArg (1 + ·) (ofSrc o)
theorem ldx (o : Src) : Statement (.ldx o) := congrArg (1 + ·) (ofSrc o)
theorem ldy (o : Src) : Statement (.ldy o) := congrArg (1 + ·) (ofSrc o)
theorem sta (m : MemOperand) : Statement (.sta m) := congrArg (1 + ·) (ofMem m)
theorem stx (m : MemOperand) : Statement (.stx m) := congrArg (1 + ·) (ofMem m)
theorem sty (m : MemOperand) : Statement (.sty m) := congrArg (1 + ·) (ofMem m)
theorem stz (m : MemOperand) : Statement (.stz m) := congrArg (1 + ·) (ofMem m)
theorem tax : Statement .tax := rfl
theorem tay : Statement .tay := rfl
theorem txa : Statement .txa := rfl
theorem tya : Statement .tya := rfl
theorem tsx : Statement .tsx := rfl
theorem txs : Statement .txs := rfl
theorem adc (o : Src) : Statement (.adc o) := congrArg (1 + ·) (ofSrc o)
theorem sbc (o : Src) : Statement (.sbc o) := congrArg (1 + ·) (ofSrc o)
theorem cmp (o : Src) : Statement (.cmp o) := congrArg (1 + ·) (ofSrc o)
theorem cpx (o : Src) : Statement (.cpx o) := congrArg (1 + ·) (ofSrc o)
theorem cpy (o : Src) : Statement (.cpy o) := congrArg (1 + ·) (ofSrc o)
theorem inc (o : Rmw) : Statement (.inc o) := congrArg (1 + ·) (ofRmw o)
theorem dec (o : Rmw) : Statement (.dec o) := congrArg (1 + ·) (ofRmw o)
theorem inx : Statement .inx := rfl
theorem iny : Statement .iny := rfl
theorem dex : Statement .dex := rfl
theorem dey : Statement .dey := rfl
theorem and (o : Src) : Statement (.and o) := congrArg (1 + ·) (ofSrc o)
theorem ora (o : Src) : Statement (.ora o) := congrArg (1 + ·) (ofSrc o)
theorem eor (o : Src) : Statement (.eor o) := congrArg (1 + ·) (ofSrc o)
theorem bit (o : Src) : Statement (.bit o) := congrArg (1 + ·) (ofSrc o)
theorem asl (o : Rmw) : Statement (.asl o) := congrArg (1 + ·) (ofRmw o)
theorem lsr (o : Rmw) : Statement (.lsr o) := congrArg (1 + ·) (ofRmw o)
theorem rol (o : Rmw) : Statement (.rol o) := congrArg (1 + ·) (ofRmw o)
theorem ror (o : Rmw) : Statement (.ror o) := congrArg (1 + ·) (ofRmw o)
theorem trb (m : MemOperand) : Statement (.trb m) := congrArg (1 + ·) (ofMem m)
theorem tsb (m : MemOperand) : Statement (.tsb m) := congrArg (1 + ·) (ofMem m)
theorem rmb0 (z : Byte) : Statement (.rmb0 z) := rfl
theorem rmb1 (z : Byte) : Statement (.rmb1 z) := rfl
theorem rmb2 (z : Byte) : Statement (.rmb2 z) := rfl
theorem rmb3 (z : Byte) : Statement (.rmb3 z) := rfl
theorem rmb4 (z : Byte) : Statement (.rmb4 z) := rfl
theorem rmb5 (z : Byte) : Statement (.rmb5 z) := rfl
theorem rmb6 (z : Byte) : Statement (.rmb6 z) := rfl
theorem rmb7 (z : Byte) : Statement (.rmb7 z) := rfl
theorem smb0 (z : Byte) : Statement (.smb0 z) := rfl
theorem smb1 (z : Byte) : Statement (.smb1 z) := rfl
theorem smb2 (z : Byte) : Statement (.smb2 z) := rfl
theorem smb3 (z : Byte) : Statement (.smb3 z) := rfl
theorem smb4 (z : Byte) : Statement (.smb4 z) := rfl
theorem smb5 (z : Byte) : Statement (.smb5 z) := rfl
theorem smb6 (z : Byte) : Statement (.smb6 z) := rfl
theorem smb7 (z : Byte) : Statement (.smb7 z) := rfl
theorem bcc (r : Byte) : Statement (.bcc r) := rfl
theorem bcs (r : Byte) : Statement (.bcs r) := rfl
theorem beq (r : Byte) : Statement (.beq r) := rfl
theorem bne (r : Byte) : Statement (.bne r) := rfl
theorem bmi (r : Byte) : Statement (.bmi r) := rfl
theorem bpl (r : Byte) : Statement (.bpl r) := rfl
theorem bvc (r : Byte) : Statement (.bvc r) := rfl
theorem bvs (r : Byte) : Statement (.bvs r) := rfl
theorem bra (r : Byte) : Statement (.bra r) := rfl
theorem bbr0 (z r : Byte) : Statement (.bbr0 z r) := rfl
theorem bbr1 (z r : Byte) : Statement (.bbr1 z r) := rfl
theorem bbr2 (z r : Byte) : Statement (.bbr2 z r) := rfl
theorem bbr3 (z r : Byte) : Statement (.bbr3 z r) := rfl
theorem bbr4 (z r : Byte) : Statement (.bbr4 z r) := rfl
theorem bbr5 (z r : Byte) : Statement (.bbr5 z r) := rfl
theorem bbr6 (z r : Byte) : Statement (.bbr6 z r) := rfl
theorem bbr7 (z r : Byte) : Statement (.bbr7 z r) := rfl
theorem bbs0 (z r : Byte) : Statement (.bbs0 z r) := rfl
theorem bbs1 (z r : Byte) : Statement (.bbs1 z r) := rfl
theorem bbs2 (z r : Byte) : Statement (.bbs2 z r) := rfl
theorem bbs3 (z r : Byte) : Statement (.bbs3 z r) := rfl
theorem bbs4 (z r : Byte) : Statement (.bbs4 z r) := rfl
theorem bbs5 (z r : Byte) : Statement (.bbs5 z r) := rfl
theorem bbs6 (z r : Byte) : Statement (.bbs6 z r) := rfl
theorem bbs7 (z r : Byte) : Statement (.bbs7 z r) := rfl
theorem jmp (t : Target) : Statement (.jmp t) := congrArg (1 + ·) (ofTarget t)
theorem jsr (w : Word) : Statement (.jsr w) := rfl
theorem rts : Statement .rts := rfl
theorem pha : Statement .pha := rfl
theorem php : Statement .php := rfl
theorem phx : Statement .phx := rfl
theorem phy : Statement .phy := rfl
theorem pla : Statement .pla := rfl
theorem plp : Statement .plp := rfl
theorem plx : Statement .plx := rfl
theorem ply : Statement .ply := rfl
theorem clc : Statement .clc := rfl
theorem cld : Statement .cld := rfl
theorem cli : Statement .cli := rfl
theorem clv : Statement .clv := rfl
theorem sec : Statement .sec := rfl
theorem sed : Statement .sed := rfl
theorem sei : Statement .sei := rfl
theorem nop : Statement .nop := rfl
theorem brk : Statement .brk := rfl
theorem rti : Statement .rti := rfl
theorem wai : Statement .wai := rfl
theorem stp : Statement .stp := rfl
theorem unassigned (op : Byte) : Statement (.unassigned op) := rfl

end Sys2Proof.Laws.EncodedLength
end

