-- ==== Sys2Proof/Tests/Slice0.lean ====
section
/-! SUPPORT. Tests. Expected results come from spec/95_test_vectors.md, from the encodings of 30_encoding.md R76 and from
rules worked by hand; none is the model's own answer. After them, a witness for each obligation with hypotheses. -/

namespace Sys2Proof.Tests

open Sys2Proof.Machine

/-! ## WellFormed refuses -/

/-- One ill-formed term for each check of `Instr.wf`: a mode that 30_encoding.md R76 does not give the mnemonic. -/
theorem test_illFormed_refused :
    [Instr.lda (.mem (.zpy 0x10)), .adc (.mem (.zpy 0x10)), .sbc (.mem (.zpy 0x10)), .cmp (.mem (.zpy 0x10)),
      .and (.mem (.zpy 0x10)), .ora (.mem (.zpy 0x10)), .eor (.mem (.zpy 0x10)),
      .sta (.zpy 0x10), .ldx (.mem (.zpx 0x10)), .ldy (.mem (.zpy 0x10)), .stx (.zpx 0x10), .sty (.zpy 0x10),
      .stz (.aby 0x1000), .cpx (.mem (.zpx 0x10)), .cpy (.mem (.abx 0x1000)), .bit (.mem (.aby 0x1000)),
      .inc (.mem (.aby 0x1000)), .dec (.mem (.zpy 0x10)), .asl (.mem (.izp 0x10)), .lsr (.mem (.izx 0x10)),
      .rol (.mem (.izy 0x10)), .ror (.mem (.aby 0x1000)), .trb (.zpx 0x10), .tsb (.abx 0x1000),
      .unassigned 0xEA].map Instr.wf = List.replicate 25 false := by decide

/-- What is refused has no encoding. -/
theorem test_illFormed_unencodable :
    [Instr.lda (.mem (.zpy 0x10)), .stx (.zpx 0x10), .trb (.zpx 0x10), .unassigned 0xEA].map encode
      = [none, none, none, none] := by decide

/-! ## Decoding: words written out from 30_encoding.md R70 and R76, the opcode bit by bit -/

/-- The instruction a byte string is, if it is exactly one. -/
def only (bytes : List Byte) : Option Instr :=
  match decode bytes with
  | .ok (i, []) => some i
  | .ok (_, _ :: _) | .error _ => none

/-- Loads and stores, one form of each mnemonic (R121 to R127). -/
theorem test_decode_loadStore :
    [[0b10101001, 0xFA], [0b10100010, 0xFA], [0b10100000, 0xFA], [0b10011101, 0x34, 0x12], [0b10010110, 0x80],
      [0b10010100, 0x80], [0b10011100, 0x34, 0x12]].map only
    = [Instr.lda (.imm 0xFA), .ldx (.imm 0xFA), .ldy (.imm 0xFA), .sta (.abx 0x1234), .stx (.zpy 0x80),
      .sty (.zpx 0x80), .stz (.abs 0x1234)].map some := by decide

/-- Transfers (R128 to R133). -/
theorem test_decode_transfers :
    [[0b10101010], [0b10101000], [0b10001010], [0b10011000], [0b10111010],
      [0b10011010]].map only
    = [Instr.tax, .tay, .txa, .tya, .tsx,
      .txs].map some := by decide

/-- Every memory mode, of LDA but for zp,Y, of LDX (R91 to R93, R97, R102 to R107). -/
theorem test_decode_modes :
    [[0b10101001, 0x80], [0b10101101, 0x34, 0x12], [0b10111101, 0x34, 0x12], [0b10111001, 0x34, 0x12], [0b10100101, 0x80],
      [0b10110101, 0x80], [0b10110110, 0x80], [0b10100001, 0x80], [0b10110010, 0x80], [0b10110001, 0x80]].map only
    = [Instr.lda (.imm 0x80), .lda (.mem (.abs 0x1234)), .lda (.mem (.abx 0x1234)), .lda (.mem (.aby 0x1234)), .lda (.mem (.zp 0x80)),
      .lda (.mem (.zpx 0x80)), .ldx (.mem (.zpy 0x80)), .lda (.mem (.izx 0x80)), .lda (.mem (.izp 0x80)), .lda (.mem (.izy 0x80))].map some := by decide

/-- Arithmetic (R141 to R155). -/
theorem test_decode_arithmetic :
    [[0b01101001, 0x50], [0b11110010, 0x80], [0b11011001, 0x34, 0x12], [0b11100000, 0x7F], [0b11001100, 0x34, 0x12],
      [0b00011010], [0b11011110, 0x34, 0x12], [0b11101000], [0b11001000], [0b11001010],
      [0b10001000]].map only
    = [Instr.adc (.imm 0x50), .sbc (.mem (.izp 0x80)), .cmp (.mem (.aby 0x1234)), .cpx (.imm 0x7F), .cpy (.mem (.abs 0x1234)),
      .inc .acc, .dec (.mem (.abx 0x1234)), .inx, .iny, .dex,
      .dey].map some := by decide

/-- Logic, BIT, shifts and rotates, TRB, TSB (R171 to R180). -/
theorem test_decode_logicShift :
    [[0b00110010, 0x00], [0b00010001, 0x80], [0b01000001, 0x80], [0b10001001, 0xC0], [0b00111100, 0x34, 0x12],
      [0b00001010], [0b01000110, 0x80], [0b00110110, 0x80], [0b01111110, 0x34, 0x12], [0b00010100, 0x80],
      [0b00001100, 0x34, 0x12]].map only
    = [Instr.and (.mem (.izp 0x00)), .ora (.mem (.izy 0x80)), .eor (.mem (.izx 0x80)), .bit (.imm 0xC0), .bit (.mem (.abx 0x1234)),
      .asl .acc, .lsr (.mem (.zp 0x80)), .rol (.mem (.zpx 0x80)), .ror (.mem (.abx 0x1234)), .trb (.zp 0x80),
      .tsb (.abs 0x1234)].map some := by decide

/-- RMBb, column 7 of rows 0 to 7 (R181). -/
theorem test_decode_rmb :
    [[0b00000111, 0x12], [0b00010111, 0x12], [0b00100111, 0x12], [0b00110111, 0x12], [0b01000111, 0x12],
      [0b01010111, 0x12], [0b01100111, 0x12], [0b01110111, 0x12]].map only
    = [Instr.rmb0 0x12, .rmb1 0x12, .rmb2 0x12, .rmb3 0x12, .rmb4 0x12,
      .rmb5 0x12, .rmb6 0x12, .rmb7 0x12].map some := by decide

/-- SMBb, column 7 of rows 8 to F (R182). -/
theorem test_decode_smb :
    [[0b10000111, 0x12], [0b10010111, 0x12], [0b10100111, 0x12], [0b10110111, 0x12], [0b11000111, 0x12],
      [0b11010111, 0x12], [0b11100111, 0x12], [0b11110111, 0x12]].map only
    = [Instr.smb0 0x12, .smb1 0x12, .smb2 0x12, .smb3 0x12, .smb4 0x12,
      .smb5 0x12, .smb6 0x12, .smb7 0x12].map some := by decide

/-- The relative branches (R202 to R210). -/
theorem test_decode_branches :
    [[0b10010000, 0xFA], [0b10110000, 0xFA], [0b11110000, 0xFA], [0b11010000, 0xFA], [0b00110000, 0xFA],
      [0b00010000, 0xFA], [0b01010000, 0xFA], [0b01110000, 0xFA], [0b10000000, 0xFA]].map only
    = [Instr.bcc 0xFA, .bcs 0xFA, .beq 0xFA, .bne 0xFA, .bmi 0xFA,
      .bpl 0xFA, .bvc 0xFA, .bvs 0xFA, .bra 0xFA].map some := by decide

/-- BBRb, column F of rows 0 to 7: the zero-page address comes first (R211). -/
theorem test_decode_bbr :
    [[0b00001111, 0x12, 0x0D], [0b00011111, 0x12, 0x0D], [0b00101111, 0x12, 0x0D], [0b00111111, 0x12, 0x0D], [0b01001111, 0x12, 0x0D],
      [0b01011111, 0x12, 0x0D], [0b01101111, 0x12, 0x0D], [0b01111111, 0x12, 0x0D]].map only
    = [Instr.bbr0 0x12 0x0D, .bbr1 0x12 0x0D, .bbr2 0x12 0x0D, .bbr3 0x12 0x0D, .bbr4 0x12 0x0D,
      .bbr5 0x12 0x0D, .bbr6 0x12 0x0D, .bbr7 0x12 0x0D].map some := by decide

/-- BBSb, column F of rows 8 to F (R212). -/
theorem test_decode_bbs :
    [[0b10001111, 0x12, 0x0D], [0b10011111, 0x12, 0x0D], [0b10101111, 0x12, 0x0D], [0b10111111, 0x12, 0x0D], [0b11001111, 0x12, 0x0D],
      [0b11011111, 0x12, 0x0D], [0b11101111, 0x12, 0x0D], [0b11111111, 0x12, 0x0D]].map only
    = [Instr.bbs0 0x12 0x0D, .bbs1 0x12 0x0D, .bbs2 0x12 0x0D, .bbs3 0x12 0x0D, .bbs4 0x12 0x0D,
      .bbs5 0x12 0x0D, .bbs6 0x12 0x0D, .bbs7 0x12 0x0D].map some := by decide

/-- JMP, JSR and RTS (R213 to R215). -/
theorem test_decode_jumps :
    [[0b01001100, 0x34, 0x12], [0b01101100, 0x34, 0x12], [0b01111100, 0x34, 0x12], [0b00100000, 0x34, 0x12], [0b01100000]].map only
    = [Instr.jmp (.abs 0x1234), .jmp (.ind 0x1234), .jmp (.iax 0x1234), .jsr 0x1234, .rts].map some := by decide

/-- Stack and flag instructions (R231 to R245). -/
theorem test_decode_stackFlag :
    [[0b01001000], [0b00001000], [0b11011010], [0b01011010], [0b01101000],
      [0b00101000], [0b11111010], [0b01111010], [0b00011000], [0b11011000],
      [0b01011000], [0b10111000], [0b00111000], [0b11111000], [0b01111000]].map only
    = [Instr.pha, .php, .phx, .phy, .pla,
      .plp, .plx, .ply, .clc, .cld,
      .cli, .clv, .sec, .sed, .sei].map some := by decide

/-- NOP, BRK, RTI, WAI, STP, and unassigned bytes (R246 to R252, 30_encoding.md R77). -/
theorem test_decode_system :
    [[0b11101010], [0b00000000], [0b01000000], [0b11001011], [0b11011011],
      [0b00000010], [0b01011100], [0b11111011]].map only
    = [Instr.nop, .brk, .rti, .wai, .stp,
      .unassigned 0x02, .unassigned 0x5C, .unassigned 0xFB].map some := by decide

/-- A byte string that ends inside an instruction is rejected by name, and so is an empty one. -/
theorem test_decode_truncated :
    [decode [], decode [0xA9], decode [0xAD, 0x34], decode [0x0F, 0x12]]
      = [.error .noOpcode, .error (.truncated 0xA9), .error (.truncated 0xAD), .error (.truncated 0x0F)] := by decide

/-- The table's numbering: the opcode is bits 7..0, a later byte counts on; bits above `nbits` are 0. -/
theorem test_decodeTableWord :
    [decodeTableWord 16 0xFAA9, decodeTableWord 24 0x20F09D, decodeTableWord 8 0xEA, decodeTableWord 8 0xFFA9]
      = [some (.lda (.imm 0xFA)), some (.sta (.abx 0x20F0)), some .nop, some (.lda (.imm 0x00))] := by decide

/-! ## One step -/

/-- The reset state with PC, code at PC and data in memory as given. -/
def start (pc : Word) (code : List Byte) (data : List (Word × Byte)) : State :=
  { State.reset with pc := pc, mem := data.foldl (fun m d => m.write d.1 d.2) (Memory.writeBytes [] pc code) }

/-- A, X, Y, SP and the status byte; PC; the outcome; the bytes at the addresses given. -/
def shown (t : State) (at_ : List Word) : List Byte × Word × Result × List Byte :=
  ([t.a, t.x, t.y, t.sp, t.flags.toByte], t.pc, t.result, at_.map t.mem.read)

/-- What one step leaves, the decode failure's state included. -/
def look (s : State) (at_ : List Word) : Option (List Byte × Word × Result × List Byte) :=
  match step s with
  | .next t => some (shown t at_)
  | .fault (.decodeError _ t) => some (shown t at_)
  | .refused _ => none

/-- A decode failure is a fault, and nothing else of these is. -/
theorem test_decodeFailure_isFault :
    step (start 0x2000 [0x02, 0xFF] []) =
      .fault (.decodeError 0x02 { start 0x2000 [0x02, 0xFF] [] with pc := 0x2001, result := .decodeError 0x02 }) := rfl

/-- A halted core stays halted and reports it, and its PC stays (95_test_vectors.md 2.5, notes). -/
theorem test_step_after_stp :
    step { start 0x2000 [0xEA] [] with halt := .stop } =
      .next { start 0x2000 [0xEA] [] with halt := .stop, result := .halted .stop } := rfl

/-- A table row's word placed in the reset state is the first instruction that runs. -/
theorem test_withFetchWord :
    look (State.reset.withFetchWord 16 0xFAA9) []
      = some ([0xFA, 0x00, 0x00, 0xFF, 0xA0], 0x0002, .cycles 2, []) := by decide

/-- Memory stays canonical: a byte written and written back to what an unlisted address reads as leaves no entry. -/
theorem test_memory_canonical :
    ((Memory.write [] 0x0010 0x80).write 0x0005 0x01).write 0x0010 0x00 = [(5, 0x01)] := by decide

/-- Reset from the host keeps memory; `SetPC` does not end a halt (70_reset_and_hazards.md R300, 60_exceptions.md R279). -/
theorem test_hostMoves :
    let s := { start 0x2000 [0xDB] [] with a := 0x11, halt := .stop, result := .halted .stop }
    (hostMove (.reset 0xFF) s = start 0x0000 [] [(0x2000, 0xDB)]) ∧ (hostMove (.setPC 0x1234) s).halt = .stop := by decide

/-- Addressing modes at their edges (95_test_vectors.md 2.1; 40_addressing_modes.md R92, R93, R103, R105, R107): an
index crossing a page, a wrap through 0xFFFF, a wrap inside page zero, a pointer whose high byte comes from 0x0000. -/
theorem test_resolve_edges :
    let s := { start 0x1000 [] [(0x00FF, 0x34), (0x0000, 0x12), (0x0010, 0xF0), (0x0011, 0xFF)] with x := 0x10, y := 0x20 }
    [resolve (.abx 0x20F0) s, resolve (.abx 0x20EF) s, resolve (.aby 0xFFF0) s, resolve (.zpx 0xF8) s,
      resolve (.izx 0xEF) s, resolve (.izp 0xFF) s, resolve (.izy 0x10) s]
    = [⟨0x2100, true⟩, ⟨0x20FF, false⟩, ⟨0x0010, true⟩, ⟨0x0008, false⟩,
      ⟨0x1234, false⟩, ⟨0x1234, false⟩, ⟨0x0010, true⟩] := by decide

/-! ### The adders -/

/-- The AddBin rows of 95_test_vectors.md 2.2: each with its operands, carry in, and the byte, carry and overflow. -/
theorem test_addBin_rows :
    [addBin 0x50 0x50 false,
      addBin 0x50 0xD0 false,
      addBin 0xFF 0x01 false,
      addBin 0x7F 0x00 true,
      addBin 0x80 0x80 false,
      addBin 0xFF 0xFF true]
    = [⟨0xA0, false, true⟩,
      ⟨0x20, true, false⟩,
      ⟨0x00, true, false⟩,
      ⟨0x80, false, true⟩,
      ⟨0x00, true, true⟩,
      ⟨0xFF, true, false⟩] := by decide

/-- The AddDec rows of 95_test_vectors.md 2.2: each with its operands, carry in, and the byte, carry and overflow. -/
theorem test_addDec_rows :
    [addDec 0x40 0x60 false,
      addDec 0x09 0x01 false,
      addDec 0x99 0x01 false,
      addDec 0x58 0x46 true,
      addDec 0x12 0x34 false,
      addDec 0x79 0x00 true,
      addDec 0x24 0x56 false,
      addDec 0x99 0x99 true,
      addDec 0x0F 0x01 false,
      addDec 0x80 0x80 false]
    = [⟨0x00, true, true⟩,
      ⟨0x10, false, false⟩,
      ⟨0x00, true, false⟩,
      ⟨0x05, true, true⟩,
      ⟨0x46, false, false⟩,
      ⟨0x80, false, true⟩,
      ⟨0x80, false, true⟩,
      ⟨0x99, true, true⟩,
      ⟨0x16, false, false⟩,
      ⟨0x60, true, true⟩] := by decide

/-- The SubBin rows of 95_test_vectors.md 2.2: each with its operands, carry in, and the byte, carry and overflow. -/
theorem test_subBin_rows :
    [subBin 0x50 0xF0 true,
      subBin 0x50 0xB0 true,
      subBin 0x00 0x01 true,
      subBin 0x05 0x05 true,
      subBin 0x05 0x05 false,
      subBin 0x80 0x01 true,
      subBin 0x7F 0xFF true]
    = [⟨0x60, false, false⟩,
      ⟨0xA0, false, true⟩,
      ⟨0xFF, false, false⟩,
      ⟨0x00, true, false⟩,
      ⟨0xFF, false, false⟩,
      ⟨0x7F, true, true⟩,
      ⟨0x80, false, true⟩] := by decide

/-- The SubDec rows of 95_test_vectors.md 2.2: each with its operands, carry in, and the byte, carry and overflow. -/
theorem test_subDec_rows :
    [subDec 0x46 0x12 true,
      subDec 0x40 0x13 true,
      subDec 0x32 0x02 false,
      subDec 0x12 0x21 true,
      subDec 0x21 0x34 true,
      subDec 0x00 0x01 true,
      subDec 0x10 0x10 true,
      subDec 0x00 0x00 false,
      subDec 0x99 0x99 true,
      subDec 0x0A 0x01 true]
    = [⟨0x34, true, false⟩,
      ⟨0x27, true, false⟩,
      ⟨0x29, true, false⟩,
      ⟨0x91, false, false⟩,
      ⟨0x87, false, false⟩,
      ⟨0x99, false, false⟩,
      ⟨0x00, true, false⟩,
      ⟨0x99, false, false⟩,
      ⟨0x00, true, false⟩,
      ⟨0x09, true, false⟩] := by decide

/-! ### Loads, stores, transfers: the rows of 95_test_vectors.md 2.1 -/

theorem test_lda_zp_x_wrap :
    look { start 0x1000 [0xB5, 0xF0] [(0x0010, 0x80), (0x0110, 0x11)] with x := 0x20 } []
      = some ([0x80, 0x20, 0x00, 0xFF, 0xA0], 0x1002, .cycles 4, []) := by decide

theorem test_ldx_zp_y :
    look { start 0x1000 [0xB6, 0xFF] [(0x0001, 0xFE)] with y := 0x02 } []
      = some ([0x00, 0xFE, 0x02, 0xFF, 0xA0], 0x1002, .cycles 4, []) := by decide

theorem test_lda_zp_y_cross :
    look { start 0x1000 [0xB1, 0x10] [(0x0010, 0xF0), (0x0011, 0x20), (0x2110, 0xC3)] with y := 0x20 } []
      = some ([0xC3, 0x00, 0x20, 0xFF, 0xA0], 0x1002, .cycles 6, []) := by decide

theorem test_sta_abs_x :
    look { start 0x1000 [0x9D, 0xF0, 0x20] [] with a := 0x5A, x := 0x20 } [0x2110]
      = some ([0x5A, 0x20, 0x00, 0xFF, 0x20], 0x1003, .cycles 5, [0x5A]) := by decide

theorem test_stz_zp :
    look (start 0x1000 [0x64, 0x30] [(0x0030, 0xFF)]) [0x0030]
      = some ([0x00, 0x00, 0x00, 0xFF, 0x20], 0x1002, .cycles 3, [0x00]) := by decide

theorem test_txs_no_flags :
    look { start 0x1000 [0x9A] [] with x := 0x00, flags := .ofByte 0xA0 } []
      = some ([0x00, 0x00, 0x00, 0x00, 0xA0], 0x1001, .cycles 2, []) := by decide

theorem test_tsx :
    look { start 0x1000 [0xBA] [] with sp := 0x80 } []
      = some ([0x00, 0x80, 0x00, 0x80, 0xA0], 0x1001, .cycles 2, []) := by decide

theorem test_tax_zero :
    look { start 0x1000 [0xAA] [] with a := 0x00, x := 0x55 } []
      = some ([0x00, 0x00, 0x00, 0xFF, 0x22], 0x1001, .cycles 2, []) := by decide

/-! Worked by hand from 41_load_store_transfer.md R123, R125, R126, R129, R130, R133. -/

theorem test_ldy_abs :
    look (start 0x1000 [0xAC, 0x00, 0x02] [(0x0200, 0x80)]) []
      = some ([0x00, 0x00, 0x80, 0xFF, 0xA0], 0x1003, .cycles 4, []) := by decide

theorem test_stx_zp_y :
    look { start 0x1000 [0x96, 0x10] [] with x := 0x7E, y := 0xF5 } [0x0005]
      = some ([0x00, 0x7E, 0xF5, 0xFF, 0x20], 0x1002, .cycles 4, [0x7E]) := by decide

theorem test_sty_zp_x :
    look { start 0x1000 [0x94, 0x10] [] with y := 0x7E, x := 0xF5 } [0x0005]
      = some ([0x00, 0xF5, 0x7E, 0xFF, 0x20], 0x1002, .cycles 4, [0x7E]) := by decide

theorem test_tay :
    look { start 0x1000 [0xA8] [] with a := 0x80 } []
      = some ([0x80, 0x00, 0x80, 0xFF, 0xA0], 0x1001, .cycles 2, []) := by decide

theorem test_txa :
    look { start 0x1000 [0x8A] [] with a := 0x05, x := 0x80 } []
      = some ([0x80, 0x80, 0x00, 0xFF, 0xA0], 0x1001, .cycles 2, []) := by decide

theorem test_tya :
    look { start 0x1000 [0x98] [] with a := 0x05, y := 0x00 } []
      = some ([0x00, 0x00, 0x00, 0xFF, 0x22], 0x1001, .cycles 2, []) := by decide

/-! ### Arithmetic: the rows of 95_test_vectors.md 2.2 -/

theorem test_adc_bin_ovf :
    look { start 0x1000 [0x69, 0x50] [] with a := 0x50 } []
      = some ([0xA0, 0x00, 0x00, 0xFF, 0xE0], 0x1002, .cycles 2, []) := by decide

theorem test_adc_dec_abs_x_cross :
    look { start 0x1000 [0x7D, 0xF0, 0x20] [(0x2110, 0x28)] with a := 0x19, x := 0x20, flags := .ofByte 0x28 } []
      = some ([0x47, 0x20, 0x00, 0xFF, 0x28], 0x1003, .cycles 6, []) := by decide

theorem test_sbc_bin_borrow_in :
    look { start 0x1000 [0xE9, 0x05] [] with a := 0x05 } []
      = some ([0xFF, 0x00, 0x00, 0xFF, 0xA0], 0x1002, .cycles 2, []) := by decide

theorem test_sbc_dec :
    look { start 0x1000 [0xE9, 0x01] [] with a := 0x00, flags := .ofByte 0x29 } []
      = some ([0x99, 0x00, 0x00, 0xFF, 0xA8], 0x1002, .cycles 3, []) := by decide

theorem test_cmp_less :
    look { start 0x1000 [0xC9, 0x20] [] with a := 0x10 } []
      = some ([0x10, 0x00, 0x00, 0xFF, 0xA0], 0x1002, .cycles 2, []) := by decide

theorem test_cmp_d_ignored :
    look { start 0x1000 [0xC9, 0x09] [] with a := 0x10, flags := .ofByte 0x28 } []
      = some ([0x10, 0x00, 0x00, 0xFF, 0x29], 0x1002, .cycles 2, []) := by decide

theorem test_cpx_equal :
    look { start 0x1000 [0xE0, 0x7F] [] with x := 0x7F } []
      = some ([0x00, 0x7F, 0x00, 0xFF, 0x23], 0x1002, .cycles 2, []) := by decide

theorem test_cpy_greater :
    look { start 0x1000 [0xC0, 0x00] [] with y := 0xFF } []
      = some ([0x00, 0x00, 0xFF, 0xFF, 0xA1], 0x1002, .cycles 2, []) := by decide

theorem test_inc_mem_wrap :
    look { start 0x1000 [0xEE, 0x00, 0x02] [(0x0200, 0xFF)] with flags := .ofByte 0x21 } [0x0200]
      = some ([0x00, 0x00, 0x00, 0xFF, 0x23], 0x1003, .cycles 6, [0x00]) := by decide

theorem test_dec_a :
    look { start 0x1000 [0x3A] [] with a := 0x00 } []
      = some ([0xFF, 0x00, 0x00, 0xFF, 0xA0], 0x1001, .cycles 2, []) := by decide

theorem test_inc_abs_x_cross :
    look { start 0x1000 [0xFE, 0xF0, 0x20] [(0x2110, 0x7F)] with x := 0x20 } [0x2110]
      = some ([0x00, 0x20, 0x00, 0xFF, 0xA0], 0x1003, .cycles 7, [0x80]) := by decide

theorem test_inx_wrap :
    look { start 0x1000 [0xE8] [] with x := 0xFF } []
      = some ([0x00, 0x00, 0x00, 0xFF, 0x22], 0x1001, .cycles 2, []) := by decide

theorem test_dey :
    look { start 0x1000 [0x88] [] with y := 0x00 } []
      = some ([0x00, 0x00, 0xFF, 0xFF, 0xA0], 0x1001, .cycles 2, []) := by decide

/-! Worked by hand from 42_arithmetic.md R153, R154. -/

theorem test_iny :
    look { start 0x1000 [0xC8] [] with y := 0x7F } []
      = some ([0x00, 0x00, 0x80, 0xFF, 0xA0], 0x1001, .cycles 2, []) := by decide

theorem test_dex :
    look { start 0x1000 [0xCA] [] with x := 0x01 } []
      = some ([0x00, 0x00, 0x00, 0xFF, 0x22], 0x1001, .cycles 2, []) := by decide

/-! ### Logic, bit test, shifts, bit manipulation: the rows of 95_test_vectors.md 2.3 -/

theorem test_and_imm :
    look { start 0x1000 [0x29, 0xAF] [] with a := 0xFA } []
      = some ([0xAA, 0x00, 0x00, 0xFF, 0xA0], 0x1002, .cycles 2, []) := by decide

theorem test_ora_zp :
    look { start 0x1000 [0x05, 0x10] [(0x0010, 0x00)] with a := 0x00 } []
      = some ([0x00, 0x00, 0x00, 0xFF, 0x22], 0x1002, .cycles 3, []) := by decide

theorem test_eor_imm :
    look { start 0x1000 [0x49, 0xFF] [] with a := 0x0F } []
      = some ([0xF0, 0x00, 0x00, 0xFF, 0xA0], 0x1002, .cycles 2, []) := by decide

theorem test_bit_imm :
    look { start 0x1000 [0x89, 0xC0] [] with a := 0x00 } []
      = some ([0x00, 0x00, 0x00, 0xFF, 0x22], 0x1002, .cycles 2, []) := by decide

theorem test_bit_abs :
    look { start 0x1000 [0x2C, 0x00, 0x02] [(0x0200, 0xC0)] with a := 0x01 } []
      = some ([0x01, 0x00, 0x00, 0xFF, 0xE2], 0x1003, .cycles 4, []) := by decide

theorem test_asl_a :
    look { start 0x1000 [0x0A] [] with a := 0x80 } []
      = some ([0x00, 0x00, 0x00, 0xFF, 0x23], 0x1001, .cycles 2, []) := by decide

theorem test_lsr_zp :
    look (start 0x1000 [0x46, 0x10] [(0x0010, 0x01)]) [0x0010]
      = some ([0x00, 0x00, 0x00, 0xFF, 0x23], 0x1002, .cycles 5, [0x00]) := by decide

theorem test_rol_a :
    look { start 0x1000 [0x2A] [] with a := 0x80, flags := .ofByte 0x21 } []
      = some ([0x01, 0x00, 0x00, 0xFF, 0x21], 0x1001, .cycles 2, []) := by decide

theorem test_ror_abs_x_cross :
    look { start 0x1000 [0x7E, 0xFF, 0x20] [(0x2100, 0x01)] with x := 0x01, flags := .ofByte 0x21 } [0x2100]
      = some ([0x00, 0x01, 0x00, 0xFF, 0xA1], 0x1003, .cycles 7, [0x80]) := by decide

theorem test_trb_zp :
    look { start 0x1000 [0x14, 0x10] [(0x0010, 0x3C)] with a := 0x0F } [0x0010]
      = some ([0x0F, 0x00, 0x00, 0xFF, 0x20], 0x1002, .cycles 5, [0x30]) := by decide

theorem test_tsb_abs :
    look { start 0x1000 [0x0C, 0x00, 0x02] [(0x0200, 0x10)] with a := 0x81 } [0x0200]
      = some ([0x81, 0x00, 0x00, 0xFF, 0x22], 0x1003, .cycles 6, [0x91]) := by decide

theorem test_rmb3 :
    look (start 0x1000 [0x37, 0x12] [(0x0012, 0xFF)]) [0x0012]
      = some ([0x00, 0x00, 0x00, 0xFF, 0x20], 0x1002, .cycles 5, [0xF7]) := by decide

theorem test_smb7 :
    look (start 0x1000 [0xF7, 0x12] [(0x0012, 0x01)]) [0x0012]
      = some ([0x00, 0x00, 0x00, 0xFF, 0x20], 0x1002, .cycles 5, [0x81]) := by decide

/-! ### Branches, jumps, call and return: the rows of 95_test_vectors.md 2.4 -/

theorem test_bne_taken_back :
    look (start 0x2004 [0xD0, 0xFA] []) []
      = some ([0x00, 0x00, 0x00, 0xFF, 0x20], 0x2000, .cycles 3, []) := by decide

theorem test_bne_not_taken :
    look { start 0x2004 [0xD0, 0xFA] [] with flags := .ofByte 0x22 } []
      = some ([0x00, 0x00, 0x00, 0xFF, 0x22], 0x2006, .cycles 2, []) := by decide

theorem test_bcc_fwd_other_page :
    look (start 0x10F0 [0x90, 0x7F] []) []
      = some ([0x00, 0x00, 0x00, 0xFF, 0x20], 0x1171, .cycles 3, []) := by decide

theorem test_bra_wrap :
    look (start 0xFFF0 [0x80, 0x7F] []) []
      = some ([0x00, 0x00, 0x00, 0xFF, 0x20], 0x0071, .cycles 3, []) := by decide

theorem test_bmi_back_wrap :
    look { start 0x0010 [0x30, 0x80] [] with flags := .ofByte 0xA0 } []
      = some ([0x00, 0x00, 0x00, 0xFF, 0xA0], 0xFF92, .cycles 3, []) := by decide

theorem test_bbr3_taken :
    look (start 0x2000 [0x3F, 0x12, 0x0D] [(0x0012, 0xF7)]) []
      = some ([0x00, 0x00, 0x00, 0xFF, 0x20], 0x2010, .cycles 6, []) := by decide

theorem test_bbs7_self :
    look (start 0x3000 [0xFF, 0x00, 0xFD] [(0x0000, 0x80)]) []
      = some ([0x00, 0x00, 0x00, 0xFF, 0x20], 0x3000, .cycles 6, []) := by decide

theorem test_jmp_a_page_end :
    look (start 0x1000 [0x6C, 0xFF, 0x12] [(0x12FF, 0x34), (0x1300, 0x56), (0x1200, 0x99)]) []
      = some ([0x00, 0x00, 0x00, 0xFF, 0x20], 0x5634, .cycles 6, []) := by decide

theorem test_jmp_a_x :
    look { start 0x1000 [0x7C, 0x00, 0x30] [(0x3004, 0x78), (0x3005, 0x56)] with x := 0x04 } []
      = some ([0x00, 0x04, 0x00, 0xFF, 0x20], 0x5678, .cycles 6, []) := by decide

theorem test_jsr :
    look (start 0x2000 [0x20, 0x00, 0x30] []) [0x01FF, 0x01FE]
      = some ([0x00, 0x00, 0x00, 0xFD, 0x20], 0x3000, .cycles 6, [0x20, 0x02]) := by decide

theorem test_jsr_sp_wrap :
    look { start 0x2000 [0x20, 0x00, 0x30] [] with sp := 0x00 } [0x0100, 0x01FF]
      = some ([0x00, 0x00, 0x00, 0xFE, 0x20], 0x3000, .cycles 6, [0x20, 0x02]) := by decide

theorem test_rts :
    look { start 0x3000 [0x60] [(0x01FE, 0x02), (0x01FF, 0x20)] with sp := 0xFD } []
      = some ([0x00, 0x00, 0x00, 0xFF, 0x20], 0x2003, .cycles 6, []) := by decide

/-! Worked by hand from 44_branch_jump.md R203 to R209. -/

theorem test_bcs_taken :
    look { start 0x1000 [0xB0, 0x02] [] with flags := .ofByte 0x21 } []
      = some ([0x00, 0x00, 0x00, 0xFF, 0x21], 0x1004, .cycles 3, []) := by decide

theorem test_beq_not_taken :
    look (start 0x1000 [0xF0, 0x02] []) []
      = some ([0x00, 0x00, 0x00, 0xFF, 0x20], 0x1002, .cycles 2, []) := by decide

theorem test_bpl_not_taken :
    look { start 0x1000 [0x10, 0x02] [] with flags := .ofByte 0xA0 } []
      = some ([0x00, 0x00, 0x00, 0xFF, 0xA0], 0x1002, .cycles 2, []) := by decide

theorem test_bvc_not_taken :
    look { start 0x1000 [0x50, 0x02] [] with flags := .ofByte 0x60 } []
      = some ([0x00, 0x00, 0x00, 0xFF, 0x60], 0x1002, .cycles 2, []) := by decide

theorem test_bvs_taken :
    look { start 0x1000 [0x70, 0xFE] [] with flags := .ofByte 0x60 } []
      = some ([0x00, 0x00, 0x00, 0xFF, 0x60], 0x1000, .cycles 3, []) := by decide

/-! ### Stack, flags, the trap, halting, unassigned bytes: the rows of 95_test_vectors.md 2.5 -/

theorem test_pha_wrap :
    look { start 0x1000 [0x48] [] with a := 0x42, sp := 0x00 } [0x0100]
      = some ([0x42, 0x00, 0x00, 0xFF, 0x20], 0x1001, .cycles 3, [0x42]) := by decide

theorem test_php_reset :
    look (start 0x1000 [0x08] []) [0x01FF]
      = some ([0x00, 0x00, 0x00, 0xFE, 0x20], 0x1001, .cycles 3, [0x20]) := by decide

theorem test_pla :
    look { start 0x1000 [0x68] [(0x0100, 0x80)] with sp := 0xFF } []
      = some ([0x80, 0x00, 0x00, 0x00, 0xA0], 0x1001, .cycles 4, []) := by decide

theorem test_plp :
    look { start 0x1000 [0x28] [(0x01FF, 0xC3)] with sp := 0xFE } []
      = some ([0x00, 0x00, 0x00, 0xFF, 0xE3], 0x1001, .cycles 4, []) := by decide

theorem test_plp_ff :
    look { start 0x1000 [0x28] [(0x01FF, 0xFF)] with sp := 0xFE } []
      = some ([0x00, 0x00, 0x00, 0xFF, 0xFF], 0x1001, .cycles 4, []) := by decide

theorem test_sed :
    look (start 0x1000 [0xF8] []) []
      = some ([0x00, 0x00, 0x00, 0xFF, 0x28], 0x1001, .cycles 2, []) := by decide

theorem test_clv :
    look { start 0x1000 [0xB8] [] with flags := .ofByte 0x60 } []
      = some ([0x00, 0x00, 0x00, 0xFF, 0x20], 0x1001, .cycles 2, []) := by decide

theorem test_nop :
    look (start 0x1000 [0xEA] []) []
      = some ([0x00, 0x00, 0x00, 0xFF, 0x20], 0x1001, .cycles 2, []) := by decide

theorem test_brk :
    look { start 0x2000 [0x00] [(0xFFFE, 0x00), (0xFFFF, 0x80)] with flags := .ofByte 0x29 } [0x01FF, 0x01FE, 0x01FD]
      = some ([0x00, 0x00, 0x00, 0xFC, 0x35], 0x8000, .cycles 7, [0x20, 0x02, 0x39]) := by decide

theorem test_rti :
    look { start 0x8000 [0x40] [(0x01FD, 0x29), (0x01FE, 0x02), (0x01FF, 0x20)] with sp := 0xFC, flags := .ofByte 0x34 } []
      = some ([0x00, 0x00, 0x00, 0xFF, 0x29], 0x2002, .cycles 6, []) := by decide

theorem test_wai :
    look (start 0x2000 [0xCB] []) []
      = some ([0x00, 0x00, 0x00, 0xFF, 0x20], 0x2001, .halted .wait, []) := by decide

theorem test_stp :
    look (start 0x2000 [0xDB] []) []
      = some ([0x00, 0x00, 0x00, 0xFF, 0x20], 0x2001, .halted .stop, []) := by decide

theorem test_unassigned_0x02 :
    look { start 0x2000 [0x02, 0xFF] [] with a := 0x11 } []
      = some ([0x11, 0x00, 0x00, 0xFF, 0x20], 0x2001, .decodeError 0x02, []) := by decide

theorem test_unassigned_0x5c :
    look (start 0x2000 [0x5C, 0x00, 0x00] []) []
      = some ([0x00, 0x00, 0x00, 0xFF, 0x20], 0x2001, .decodeError 0x5C, []) := by decide

/-! Worked by hand from 45_stack_flag_system.md R233 to R245. -/

theorem test_phx :
    look { start 0x1000 [0xDA] [] with x := 0x42 } [0x01FF]
      = some ([0x00, 0x42, 0x00, 0xFE, 0x20], 0x1001, .cycles 3, [0x42]) := by decide

theorem test_phy :
    look { start 0x1000 [0x5A] [] with y := 0x42 } [0x01FF]
      = some ([0x00, 0x00, 0x42, 0xFE, 0x20], 0x1001, .cycles 3, [0x42]) := by decide

theorem test_plx :
    look { start 0x1000 [0xFA] [(0x01FF, 0x80)] with sp := 0xFE } []
      = some ([0x00, 0x80, 0x00, 0xFF, 0xA0], 0x1001, .cycles 4, []) := by decide

theorem test_ply :
    look { start 0x1000 [0x7A] [(0x01FF, 0x00)] with sp := 0xFE } []
      = some ([0x00, 0x00, 0x00, 0xFF, 0x22], 0x1001, .cycles 4, []) := by decide

theorem test_clc :
    look { start 0x1000 [0x18] [] with flags := .ofByte 0xA1 } []
      = some ([0x00, 0x00, 0x00, 0xFF, 0xA0], 0x1001, .cycles 2, []) := by decide

theorem test_cld :
    look { start 0x1000 [0xD8] [] with flags := .ofByte 0x29 } []
      = some ([0x00, 0x00, 0x00, 0xFF, 0x21], 0x1001, .cycles 2, []) := by decide

theorem test_cli :
    look { start 0x1000 [0x58] [] with flags := .ofByte 0x2C } []
      = some ([0x00, 0x00, 0x00, 0xFF, 0x28], 0x1001, .cycles 2, []) := by decide

theorem test_sec :
    look (start 0x1000 [0x38] []) []
      = some ([0x00, 0x00, 0x00, 0xFF, 0x21], 0x1001, .cycles 2, []) := by decide

theorem test_sei :
    look (start 0x1000 [0x78] []) []
      = some ([0x00, 0x00, 0x00, 0xFF, 0x24], 0x1001, .cycles 2, []) := by decide

/-! ## Witnesses: for each obligation with hypotheses, a concrete case that meets them; where it has several clauses,
one for each, at a boundary -/

theorem witness_DecodeOfEncodeGivesTheInstruction :
    [Instr.sta (.abx 0xFFFF), .bbs7 0xFF 0x80, .wai, .unassigned 0xFB].map Instr.wf = List.replicate 4 true := by decide

theorem witness_EncodeOfDecodeGivesTheBytes :
    decode [0x9D, 0xFF, 0xFF, 0x02] = .ok (.sta (.abx 0xFFFF), [0x02]) := rfl

theorem witness_OpcodeFixesModeAndLength :
    (Instr.lda (.imm 0x00)).opcode.isSome = true ∧ (Instr.lda (.imm 0x00)).opcode = (Instr.lda (.imm 0xFF)).opcode := by
  decide

theorem witness_StepRunsTheDecodedInstruction :
    let s := start 0xFFFF [0xA9, 0xFA] []
    s.halt = .run ∧ decode s.codeBytes = .ok (.lda (.imm 0xFA), [0x00]) := ⟨rfl, rfl⟩

/-- Each case: halted both ways, at an unassigned byte; running at an unassigned byte; at WAI; at STP; at another. -/
theorem witness_StepOutcomesAreDecidedInOrder :
    let bad := start 0xFFFF [0x02] []
    let answer := fun s : State => (s.halt, unassignedBytes.contains (s.byteAt 0), s.fetch)
    [{ bad with halt := .wait }, { bad with halt := .stop }, bad, start 0xFFFF [0xCB] [], start 0xFFFF [0xDB] [],
      start 0xFFFF [0xEA] []].map answer
    = [(.wait, true, .unassigned 0x02), (.stop, true, .unassigned 0x02), (.run, true, .unassigned 0x02),
      (.run, false, .wai), (.run, false, .stp), (.run, false, .nop)] := by decide

theorem witness_PlacedWordIsRunNext : decodeTableWord 16 0xFAA9 = some (.lda (.imm 0xFA)) := by decide

/-- Two memories written in different orders. -/
theorem witness_CanonicalMemoriesWithEqualReadsAreEqual :
    let m := (Memory.write [] 0x0000 0x01).write 0xFFFF 0x02
    let m' := (Memory.write [] 0xFFFF 0x02).write 0x0000 0x01
    m.wf = true ∧ m'.wf = true ∧ ∀ a : Word, m.read a = m'.read a := ⟨rfl, rfl, fun _ => rfl⟩

theorem witness_LoadsTakeTheOperand :
    [Instr.lda (.imm 0x00), .ldx (.mem (.zpy 0xFF)), .ldy (.mem (.abx 0xFFFF))].map Instr.wf
      = List.replicate 3 true := by decide

theorem witness_StoresWriteOneByte :
    [Instr.sta (.zp 0xFF), .stx (.zp 0xFF), .sty (.zp 0xFF), .stz (.zp 0xFF)].map Instr.wf = List.replicate 4 true := by
  decide

/-- The greatest and the least decimal byte are decimal; the bytes next to 0x99 and 0x09 above them are not. -/
theorem witness_AddDecAddsDecimalDigits :
    [(0x00 : Byte), 0x99, 0x09, 0x90, 0x9A, 0xA0, 0x0A].map isBcd = [true, true, true, true, false, false, false] := by
  decide

theorem witness_SubDecSubtractsDecimalDigits :
    isBcd 0x00 = true ∧ isBcd 0x99 = true ∧ isBcd 0x90 = true ∧ bcdValue 0x90 = 90 := by decide

theorem witness_AdcSbcStoreTheSelectedSum :
    [Instr.adc (.mem (.izy 0xFF)), .sbc (.mem (.izy 0xFF))].map Instr.wf = List.replicate 2 true := by decide

theorem witness_ComparesOrderUnsigned :
    [Instr.cmp (.mem (.zp 0xFF)), .cpx (.mem (.zp 0xFF)), .cpy (.mem (.zp 0xFF))].map Instr.wf
      = List.replicate 3 true := by decide

theorem witness_IncDecStepTheirOperand :
    [Instr.inc (.mem (.abx 0xFFFF)), .dec (.mem (.abx 0xFFFF))].map Instr.wf = List.replicate 2 true := by decide

theorem witness_LogicActsOnTheAccumulator :
    [Instr.and (.mem (.izp 0xFF)), .ora (.mem (.izp 0xFF)), .eor (.mem (.izp 0xFF))].map Instr.wf
      = List.replicate 3 true := by decide

theorem witness_BitTestsAndCopies : (Instr.bit (.mem (.abx 0xFFFF))).wf = true := by decide

theorem witness_ShiftsWriteBackInPlace :
    [Instr.asl (.mem (.zpx 0xFF)), .lsr (.mem (.zpx 0xFF)), .rol (.mem (.zpx 0xFF)), .ror (.mem (.zpx 0xFF))].map Instr.wf
      = List.replicate 4 true := by decide

theorem witness_TrbTsbTestThenChange :
    [Instr.trb (.abs 0xFFFF), .tsb (.abs 0xFFFF)].map Instr.wf = List.replicate 2 true := by decide

/-- A taken and an untaken branch of each polarity, and the extreme offsets. -/
theorem witness_BranchesMoveRelative :
    (.bcc 0x80, true) ∈ branches 0x80 (.ofByte 0x20) ∧ (.bcc 0x7F, false) ∈ branches 0x7F (.ofByte 0x21) ∧
    (.bra 0x80, true) ∈ branches 0x80 (.ofByte 0x20) := by decide

/-- Each clause about a byte of memory, with SP at the end of page one: the three pushed bytes lie at 0x0100, 0x01FF and
0x01FE, and 0x0101 is none of them. -/
theorem witness_BrkTakesTheTrap :
    look { start 0x2000 [0x00] [] with sp := 0x00, flags := .ofByte 0x29 } [0x0100, 0x01FF, 0x01FE, 0x0101]
      = some ([0x00, 0x00, 0x00, 0xFD, 0x35], 0x0000, .cycles 7, [0x20, 0x02, 0x39, 0x00]) := by decide

/-- The addresses next to the bytes a JSR pushes when SP wraps; 0x0100 and 0x01FF are the two it pushes to. -/
theorem witness_RtsReturnsAfterJsr :
    let s := { State.reset with sp := 0x00 }
    (0x0101 : Word) ∉ storedAddresses (.jsr 0x3000) s ∧ (0x01FE : Word) ∉ storedAddresses (.jsr 0x3000) s := by decide

/-- The addresses next to the bytes a BRK pushes when SP wraps; 0x0100, 0x01FF and 0x01FE are the three it pushes to. -/
theorem witness_RtiReturnsAfterBrk :
    let s := { State.reset with sp := 0x00 }
    (0x0101 : Word) ∉ storedAddresses .brk s ∧ (0x01FD : Word) ∉ storedAddresses .brk s := by decide

/-- The three parts: an executed instruction, a decode failure, a halted step. -/
theorem witness_FlagsChangeOnlyByTheirRules :
    (∃ t, exec (.lda (.imm 0x00)) State.reset = .next t) ∧
    (∃ op t, step (start 0x2000 [0x02] []) = .fault (.decodeError op t)) ∧
    (∃ s t, s.halt ≠ .run ∧ step s = .next t) :=
  ⟨⟨_, rfl⟩, ⟨_, _, rfl⟩, { State.reset with halt := .wait }, _, by decide, rfl⟩

/-- Each kind of instruction the statement tells apart. -/
theorem witness_SetNZTestsTheWrittenByte :
    (∃ t, exec (.lda (.imm 0x80)) State.reset = .next t ∧ testedByte (.lda (.imm 0x80)) State.reset t = some 0x80) ∧
    (∃ t, exec (.bit (.imm 0x00)) State.reset = .next t ∧ testedByte (.bit (.imm 0x00)) State.reset t = none) ∧
    (∃ t, exec (.trb (.zp 0x00)) State.reset = .next t ∧ testedByte (.trb (.zp 0x00)) State.reset t = none) ∧
    (∃ t, exec .txs State.reset = .next t ∧ testedByte .txs State.reset t = none) :=
  ⟨⟨_, rfl, rfl⟩, ⟨_, rfl, rfl⟩, ⟨_, rfl, rfl⟩, ⟨_, rfl, rfl⟩⟩

theorem witness_RegistersChangeOnlyByTheirWriters :
    (∃ t, exec .nop State.reset = .next t) ∧
    writesA .nop = false ∧ writesX .nop = false ∧ writesY .nop = false ∧ writesSP .nop = false ∧
    Instr.nop ≠ .wai ∧ Instr.nop ≠ .stp := ⟨⟨_, rfl⟩, by decide⟩

theorem witness_MemoryChangesOnlyWhereStored :
    (∃ t, exec (.sta (.zp 0xFF)) State.reset = .next t) ∧ (0x0100 : Word) ∉ storedAddresses (.sta (.zp 0xFF)) State.reset :=
  ⟨⟨_, rfl⟩, by decide⟩

theorem witness_InertFlagsDoNotInfluence :
    (∃ t, exec (.cmp (.imm 0x09)) State.reset = .next t) ∧ Instr.cmp (.imm 0x09) ≠ .php ∧ Instr.cmp (.imm 0x09) ≠ .brk ∧
    (∀ o, Instr.cmp (.imm 0x09) ≠ .adc o) ∧ (∀ o, Instr.cmp (.imm 0x09) ≠ .sbc o) :=
  ⟨⟨_, rfl⟩, by decide, by decide, fun _ h => Instr.noConfusion h, fun _ h => Instr.noConfusion h⟩

/-- Two states that share a memory and differ in every register. -/
theorem witness_ResetGivesTheStatedValues :
    let s := start 0x2000 [0xEA] []
    let s' := { s with a := 0xFF, x := 0xFF, y := 0xFF, sp := 0x00, pc := 0xFFFF, flags := .ofByte 0xFF, halt := .stop }
    s.mem = s'.mem ∧ s ≠ s' := by decide

theorem witness_OnlyResetEndsAHalt :
    { State.reset with halt := .wait }.halt ≠ .run ∧
    ∀ e ∈ [Event.step, .host (.setPC 0x2000), .host (.poke 0x2000 0xEA), .host .clearMemory, .step], e.isReset = false := by
  decide

/-- Decided in parts: a canonical memory that is not empty, a result that agrees with HALT, and a step. -/
theorem witness_StepKeepsTheInvariant :
    (start 0x2000 [0xDB] []).Inv ∧ ∃ t, step (start 0x2000 [0xDB] []) = .next t := ⟨⟨rfl, rfl⟩, _, rfl⟩

theorem witness_SessionsKeepTheInvariant : (start 0x2000 [0x02] []).Inv := ⟨rfl, rfl⟩

end Sys2Proof.Tests
end

section
/-! SUPPORT. The matrix of 30_encoding.md R75 against the list of R76, and the bounds of the cycle table. -/

namespace Sys2Proof

/-- What the matrix reads from an opcode byte is listed under that byte in R76: a finite check of the 256 cells, each
for all operand bytes at once. -/
theorem opcode_cellOf_instr (op b1 b2 : Byte) : ((cellOf op).instr op b1 b2).opcode = some op := by
  obtain ⟨n, hn, rfl⟩ : ∃ n < 256, op = BitVec.ofNat 8 n := ⟨op.toNat, op.isLt, by simp⟩
  interval_cases n <;> rfl

theorem cellOf_unassigned : ∀ op ∈ unassignedBytes, cellOf op = .unassigned := by
  intro op h
  fin_cases h <;> rfl

theorem mem_of_opcodeFor {rows : List (Mode × Byte)} {m : Mode} {op : Byte} (h : opcodeFor rows m = some op) :
    op ∈ rows.map Prod.snd := by
  fun_induction opcodeFor rows m with
  | case1 => nomatch h
  | case2 op' rest => exact List.mem_cons.mpr (.inl (Option.some.inj h).symm)
  | case3 k op' rest hne ih => exact List.mem_cons_of_mem _ (ih h)

theorem unassigned_opcode {op op' : Byte} (h : (Instr.unassigned op).opcode = some op') :
    unassignedBytes.contains op = true := by
  rw [Instr.opcode] at h
  by_contra hn
  rw [if_neg hn] at h
  nomatch h

namespace Machine

/-- The most a page cross can add to the count of an opcode byte (70_reset_and_hazards.md R306). -/
def pageCycle (op : Byte) : Nat := if pagex.contains op then 1 else 0

theorem pageExtra_le_pageCycle {i : Instr} {op : Byte} (h : i.opcode = some op) (crossed : Bool) :
    pageExtra i crossed ≤ pageCycle op := by
  simp only [pageExtra, pageCycle, chargesPageCross, h]
  cases pagex.contains op <;> cases crossed <;> decide

theorem baseCycles_of_opcode {i : Instr} {op : Byte} (h : i.opcode = some op) : baseCycles i = baseCyclesOf op := by
  simp only [baseCycles, h]

theorem two_le_baseCyclesOf : ∀ op : Byte, op ∉ unassignedBytes → 2 ≤ baseCyclesOf op := by decide

theorem baseCyclesOf_add_pageCycle_le : ∀ op : Byte, baseCyclesOf op + pageCycle op ≤ 7 := by decide

/-- The cycles an instruction may take beside base and page cross: one in decimal mode (70_reset_and_hazards.md R307),
one for a taken branch (R308). -/
def ownExtra : Instr → Nat
  | .adc _ | .sbc _ => 1
  | .bcc _ | .bcs _ | .beq _ | .bne _ | .bmi _ | .bpl _ | .bvc _ | .bvs _ | .bra _ => 1
  | .bbr0 _ _ | .bbr1 _ _ | .bbr2 _ _ | .bbr3 _ _ | .bbr4 _ _ | .bbr5 _ _ | .bbr6 _ _ | .bbr7 _ _ => 1
  | .bbs0 _ _ | .bbs1 _ _ | .bbs2 _ _ | .bbs3 _ _ | .bbs4 _ _ | .bbs5 _ _ | .bbs6 _ _ | .bbs7 _ _ => 1
  | _ => 0

/-- All the extras together never pass 7. -/
theorem cycles_le_seven {i : Instr} {op : Byte} (h : i.opcode = some op) :
    baseCyclesOf op + pageCycle op + ownExtra i ≤ 7 := by
  cases i with
  | adc _ | sbc _ =>
    have listed := mem_of_opcodeFor h
    clear h
    change baseCyclesOf op + pageCycle op + 1 ≤ 7
    revert op
    decide
  | bcc _ | bcs _ | beq _ | bne _ | bmi _ | bpl _ | bvc _ | bvs _ | bra _
  | bbr0 _ _ | bbr1 _ _ | bbr2 _ _ | bbr3 _ _ | bbr4 _ _ | bbr5 _ _ | bbr6 _ _ | bbr7 _ _
  | bbs0 _ _ | bbs1 _ _ | bbs2 _ _ | bbs3 _ _ | bbs4 _ _ | bbs5 _ _ | bbs6 _ _ | bbs7 _ _ =>
    obtain rfl := Option.some.inj h
    change _ + 1 ≤ 7
    decide
  | _ => exact baseCyclesOf_add_pageCycle_le op

end Machine
end Sys2Proof
end

section
/-! SUPPORT. What each instruction leaves, register by register, and the one lemma that ties these tables to `exec`. -/

namespace Sys2Proof.Machine

/-- The byte and the flags that a read-modify-write instruction makes of the byte and the flags it finds. -/
def rmwFunction (i : Instr) (s : State) : Byte → Flags → Byte × Flags :=
  match i with
  | .inc _ => incByte
  | .dec _ => decByte
  | .asl _ => aslByte
  | .lsr _ => lsrByte
  | .rol _ => rolByte
  | .ror _ => rorByte
  | .trb _ => trbByte s.a
  | .tsb _ => tsbByte s.a
  | .rmb0 _ => rmbByte 0 | .rmb1 _ => rmbByte 1 | .rmb2 _ => rmbByte 2 | .rmb3 _ => rmbByte 3
  | .rmb4 _ => rmbByte 4 | .rmb5 _ => rmbByte 5 | .rmb6 _ => rmbByte 6 | .rmb7 _ => rmbByte 7
  | .smb0 _ => smbByte 0 | .smb1 _ => smbByte 1 | .smb2 _ => smbByte 2 | .smb3 _ => smbByte 3
  | .smb4 _ => smbByte 4 | .smb5 _ => smbByte 5 | .smb6 _ => smbByte 6 | .smb7 _ => smbByte 7
  | _ => Prod.mk

/-- A after an instruction (10_state.md R20). -/
def aAfter (i : Instr) (s : State) : Byte :=
  match i with
  | .lda o => readSrc o s
  | .txa => s.x
  | .tya => s.y
  | .pla => s.top
  | .and o => s.a &&& readSrc o s
  | .ora o => s.a ||| readSrc o s
  | .eor o => s.a ^^^ readSrc o s
  | .adc o => (adcSum s.flags s.a (readSrc o s)).r
  | .sbc o => (sbcSum s.flags s.a (readSrc o s)).r
  | .inc .acc | .dec .acc | .asl .acc | .lsr .acc | .rol .acc | .ror .acc => (rmwFunction i s s.a s.flags).1
  | _ => s.a

/-- X after an instruction (10_state.md R21). -/
def xAfter (i : Instr) (s : State) : Byte :=
  match i with
  | .ldx o => readSrc o s
  | .tax => s.a
  | .tsx => s.sp
  | .plx => s.top
  | .inx => s.x + 1
  | .dex => s.x - 1
  | _ => s.x

/-- Y after an instruction (10_state.md R22). -/
def yAfter (i : Instr) (s : State) : Byte :=
  match i with
  | .ldy o => readSrc o s
  | .tay => s.a
  | .ply => s.top
  | .iny => s.y + 1
  | .dey => s.y - 1
  | _ => s.y

/-- SP after an instruction (10_state.md R24). -/
def spAfter (i : Instr) (s : State) : Byte :=
  match i with
  | .txs => s.x
  | .pha | .php | .phx | .phy => s.sp - 1
  | .pla | .plp | .plx | .ply => s.sp + 1
  | .jsr _ => s.sp - 1 - 1
  | .rts => s.sp + 1 + 1
  | .brk => s.sp - 1 - 1 - 1
  | .rti => s.sp + 1 + 1 + 1
  | _ => s.sp

/-- The flags after an instruction (10_state.md R25, R27). -/
def flagsAfter (i : Instr) (s : State) : Flags :=
  match i with
  | .lda _ | .txa | .tya | .pla | .and _ | .ora _ | .eor _ => s.flags.setNZ (aAfter i s)
  | .ldx _ | .tax | .tsx | .plx | .inx | .dex => s.flags.setNZ (xAfter i s)
  | .ldy _ | .tay | .ply | .iny | .dey => s.flags.setNZ (yAfter i s)
  | .adc o => s.flags.afterSum (adcSum s.flags s.a (readSrc o s))
  | .sbc o => s.flags.afterSum (sbcSum s.flags s.a (readSrc o s))
  | .cmp o => s.flags.compare s.a (readSrc o s)
  | .cpx o => s.flags.compare s.x (readSrc o s)
  | .cpy o => s.flags.compare s.y (readSrc o s)
  | .inc o | .dec o | .asl o | .lsr o | .rol o | .ror o => (rmwFunction i s (readRmw o s) s.flags).2
  | .bit o => bitFlags o s.flags s.a (readSrc o s)
  | .trb m | .tsb m => s.flags.testMask s.a (s.mem.read (resolve m s).ea)
  | .clc => { s.flags with c := false }
  | .cld => { s.flags with d := false }
  | .cli => { s.flags with i := false }
  | .clv => { s.flags with v := false }
  | .sec => { s.flags with c := true }
  | .sed => { s.flags with d := true }
  | .sei => { s.flags with i := true }
  | .plp | .rti => .ofByte s.top
  | .brk => s.flags.afterBrk
  | _ => s.flags

/-- The bytes an instruction stores, one for each of its `storedAddresses`. -/
def storedBytes (i : Instr) (s : State) : List Byte :=
  match i with
  | .sta _ => [s.a]
  | .stx _ => [s.x]
  | .sty _ => [s.y]
  | .stz _ => [0x00]
  | .inc (.mem m) | .dec (.mem m) | .asl (.mem m) | .lsr (.mem m) | .rol (.mem m) | .ror (.mem m) | .trb m | .tsb m =>
    [(rmwFunction i s (s.mem.read (resolve m s).ea) s.flags).1]
  | .rmb0 z | .rmb1 z | .rmb2 z | .rmb3 z | .rmb4 z | .rmb5 z | .rmb6 z | .rmb7 z
  | .smb0 z | .smb1 z | .smb2 z | .smb3 z | .smb4 z | .smb5 z | .smb6 z | .smb7 z =>
    [(rmwFunction i s (s.mem.read (zext16 z)) s.flags).1]
  | .pha => [s.a]
  | .php => [s.flags.toByte]
  | .phx => [s.x]
  | .phy => [s.y]
  | .jsr _ => [hiByte ((s.past i).pc - 1), loByte ((s.past i).pc - 1)]
  | .brk => [hiByte ((s.past i).pc + 1), loByte ((s.past i).pc + 1), s.flags.stackedByBrk.toByte]
  | _ => []

/-- Memory after bytes are stored at addresses, in order. -/
def Memory.storeAll (m : Memory) : List Word → List Byte → Memory
  | a :: as, v :: vs => Memory.storeAll (m.write a v) as vs
  | _, _ => m

/-- The kind of halt of an instruction that halts (60_exceptions.md R279). -/
def haltedBy : Instr → Option HaltKind
  | .wai => some .wait
  | .stp => some .stop
  | _ => none

/-- A branch changes PC and the report alone, costs at most one cycle more than its base, and goes the same way under
any flags once its condition is given. -/
theorem branchIf_next {i : Instr} {cond : Bool} {r : Byte} {s t : State} (h : branchIf i cond r s = .next t) :
    ∃ pc n, n ≤ 1 ∧ t = { s with pc := pc, result := .cycles (baseCycles i + n) } ∧
      ∀ g, branchIf i cond r { s with flags := g }
        = .next { s with flags := g, pc := pc, result := .cycles (baseCycles i + n) } := by
  rw [branchIf_eq] at h
  obtain rfl := Host.Outcome.next.inj h
  exact ⟨_, _, by split <;> decide, rfl, fun g => branchIf_eq i cond r { s with flags := g }⟩

theorem branchIf_ne_fault (i : Instr) (cond : Bool) (r : Byte) (s : State) (f : Fault) :
    branchIf i cond r s ≠ .fault f := by
  rw [branchIf_eq]
  nofun

/-- A cycle count made of the base, a page cross and the instruction's own extra (70_reset_and_hazards.md R304). -/
def Counted (i : Instr) (r : Result) : Prop :=
  ∃ crossed, ∃ e ≤ ownExtra i, r = .cycles (baseCycles i + (pageExtra i crossed + e))

theorem counted_page (i : Instr) (crossed : Bool) : Counted i (.cycles (baseCycles i + pageExtra i crossed)) :=
  ⟨crossed, 0, Nat.zero_le _, rfl⟩

theorem counted_own (i : Instr) {n : Nat} (h : n ≤ ownExtra i) : Counted i (.cycles (baseCycles i + n)) :=
  ⟨false, n, h, by rw [pageExtra_false, Nat.zero_add]⟩

/-- What an instruction leaves in each field but PC, and how its step ends. -/
structure Leaves (i : Instr) (s t : State) : Prop where
  a : t.a = aAfter i s
  x : t.x = xAfter i s
  y : t.y = yAfter i s
  sp : t.sp = spAfter i s
  flags : t.flags = flagsAfter i s
  mem : t.mem = s.mem.storeAll (storedAddresses i s) (storedBytes i s)
  running : haltedBy i = none → t.halt = s.halt ∧ Counted i t.result
  halted : ∀ k, haltedBy i = some k → t.halt = k.runState ∧ t.result = .halted k

/-- The inversion lemma of `exec`: all that an instruction with a next state can do. With the state taken apart into its
fields, each field of the next state computes to its row of the table. -/
theorem exec_leaves {i : Instr} {s t : State} (h : exec i s = .next t) : Leaves i s t := by
  obtain ⟨a, x, y, sp, pc, flags, halt, mem, result⟩ := s
  cases i with
  | lda o | ldx o | ldy o | cmp o | cpx o | cpy o | and o | ora o | eor o | bit o
  | sta o | stx o | sty o | stz o | trb o | tsb o
  | rmb0 o | rmb1 o | rmb2 o | rmb3 o | rmb4 o | rmb5 o | rmb6 o | rmb7 o
  | smb0 o | smb1 o | smb2 o | smb3 o | smb4 o | smb5 o | smb6 o | smb7 o =>
    obtain rfl := Host.Outcome.next.inj h
    exact ⟨rfl, rfl, rfl, rfl, rfl, rfl, fun _ => ⟨rfl, counted_page _ _⟩, nofun⟩
  | inc o | dec o | asl o | lsr o | rol o | ror o =>
    obtain rfl := Host.Outcome.next.inj h
    cases o <;> exact ⟨rfl, rfl, rfl, rfl, rfl, rfl, fun _ => ⟨rfl, counted_page _ _⟩, nofun⟩
  | adc o | sbc o =>
    obtain rfl := Host.Outcome.next.inj h
    exact ⟨rfl, rfl, rfl, rfl, rfl, rfl, fun _ => ⟨rfl, _, _, decimalExtra_le _, rfl⟩, nofun⟩
  | bcc _ | bcs _ | beq _ | bne _ | bmi _ | bpl _ | bvc _ | bvs _
  | bbr0 _ _ | bbr1 _ _ | bbr2 _ _ | bbr3 _ _ | bbr4 _ _ | bbr5 _ _ | bbr6 _ _ | bbr7 _ _
  | bbs0 _ _ | bbs1 _ _ | bbs2 _ _ | bbs3 _ _ | bbs4 _ _ | bbs5 _ _ | bbs6 _ _ | bbs7 _ _ =>
    obtain ⟨pc, n, hn, rfl, -⟩ := branchIf_next h
    exact ⟨rfl, rfl, rfl, rfl, rfl, rfl, fun _ => ⟨rfl, counted_own _ hn⟩, nofun⟩
  | wai | stp =>
    obtain rfl := Host.Outcome.next.inj h
    exact ⟨rfl, rfl, rfl, rfl, rfl, rfl, nofun, by rintro _ ⟨⟩; exact ⟨rfl, rfl⟩⟩
  | unassigned op => nomatch h
  | _ =>
    obtain rfl := Host.Outcome.next.inj h
    exact ⟨rfl, rfl, rfl, rfl, rfl, rfl, fun _ => ⟨rfl, counted_own _ (Nat.le_refl _)⟩, nofun⟩

end Sys2Proof.Machine
end

section
/-! SUPPORT. What a step can do: run the instruction at PC, fail to decode it, or stay halted. -/

namespace Sys2Proof.Machine

theorem step_of_run {s : State} (h : s.halt = .run) : step s = exec s.fetch s := by rw [step, h]

/-- A step taken while halted changes the report alone. -/
theorem step_of_halted {s : State} (h : s.halt ≠ .run) :
    ∃ k : HaltKind, s.halt = k.runState ∧ step s = .next (s.withResult (.halted k)) := by
  cases hs : s.halt with
  | run => exact absurd hs h
  | wait => exact ⟨.wait, rfl, by rw [step, hs]; rfl⟩
  | stop => exact ⟨.stop, rfl, by rw [step, hs]; rfl⟩

/-- A fault is the decode failure of an unassigned byte, with PC past it and nothing else changed but the report. -/
theorem exec_fault {i : Instr} {s : State} {f : Fault} (h : exec i s = .fault f) :
    ∃ op, i = .unassigned op ∧ f = .decodeError op ((s.past i).withResult (.decodeError op)) := by
  cases i with
  | unassigned op => exact ⟨op, rfl, (Host.Outcome.fault.inj h).symm⟩
  | bcc _ | bcs _ | beq _ | bne _ | bmi _ | bpl _ | bvc _ | bvs _
  | bbr0 _ _ | bbr1 _ _ | bbr2 _ _ | bbr3 _ _ | bbr4 _ _ | bbr5 _ _ | bbr6 _ _ | bbr7 _ _
  | bbs0 _ _ | bbs1 _ _ | bbs2 _ _ | bbs3 _ _ | bbs4 _ _ | bbs5 _ _ | bbs6 _ _ | bbs7 _ _ =>
    exact absurd h (branchIf_ne_fault _ _ _ _ f)
  | _ => nomatch h

/-- A step that faults was taken by a running core on an unassigned byte. -/
theorem step_fault {s : State} {f : Fault} (h : step s = .fault f) :
    s.halt = .run ∧ ∃ op, s.fetch = .unassigned op ∧
      f = .decodeError op ((s.past (.unassigned op)).withResult (.decodeError op)) := by
  by_cases hs : s.halt = .run
  · rw [step_of_run hs] at h
    obtain ⟨op, hi, hf⟩ := exec_fault h
    exact ⟨hs, op, hi, hi ▸ hf⟩
  · obtain ⟨k, -, hk⟩ := step_of_halted hs
    nomatch hk.symm.trans h

end Sys2Proof.Machine
end

section
/-! SUPPORT. A, X, Y, SP and HALT change only by their writers (10_state.md R20 to R24, R29). -/

namespace Sys2Proof.Machine

theorem aAfter_of_not_writesA {i : Instr} (s : State) (h : writesA i = false) : aAfter i s = s.a := by
  cases i with
  | lda _ | txa | tya | pla | and _ | ora _ | eor _ | adc _ | sbc _ => nomatch h
  | inc o | dec o | asl o | lsr o | rol o | ror o =>
    cases o with
    | acc => nomatch h
    | mem _ => rfl
  | _ => rfl

theorem xAfter_of_not_writesX {i : Instr} (s : State) (h : writesX i = false) : xAfter i s = s.x := by
  cases i with
  | ldx _ | tax | tsx | plx | inx | dex => nomatch h
  | _ => rfl

theorem yAfter_of_not_writesY {i : Instr} (s : State) (h : writesY i = false) : yAfter i s = s.y := by
  cases i with
  | ldy _ | tay | ply | iny | dey => nomatch h
  | _ => rfl

theorem spAfter_of_not_writesSP {i : Instr} (s : State) (h : writesSP i = false) : spAfter i s = s.sp := by
  cases i with
  | txs | pha | php | phx | phy | pla | plp | plx | ply | jsr _ | rts | brk | rti => nomatch h
  | _ => rfl

theorem haltedBy_eq_none {i : Instr} (hw : i ≠ .wai) (hs : i ≠ .stp) : haltedBy i = none := by
  cases i with
  | wai => exact absurd rfl hw
  | stp => exact absurd rfl hs
  | _ => rfl

/-- Settles O50, register by register from the inversion lemma. -/
theorem registersChangeOnlyByTheirWriters : Obligations.RegistersChangeOnlyByTheirWriters := by
  intro i s t h
  have left := exec_leaves h
  exact ⟨fun hA => left.a.trans (aAfter_of_not_writesA s hA),
    fun hX => left.x.trans (xAfter_of_not_writesX s hX),
    fun hY => left.y.trans (yAfter_of_not_writesY s hY),
    fun hSP => left.sp.trans (spAfter_of_not_writesSP s hSP),
    fun hw hs => (left.running (haltedBy_eq_none hw hs)).1⟩

end Sys2Proof.Machine
end

section
/-! SUPPORT. The flags: which an instruction may change (10_state.md R28), SetNZ (R27) and the status byte (R26). -/

namespace Sys2Proof.Machine

theorem Flags.keptOutside_refl (mask f : Flags) : mask.keptOutside f f := by
  simp [Flags.keptOutside]

/-- What `flagsWritten` lists covers every change that `flagsAfter` makes. -/
theorem flagsAfter_keptOutside (i : Instr) (s : State) : (flagsWritten i).keptOutside s.flags (flagsAfter i s) := by
  obtain ⟨a, x, y, sp, pc, ⟨fn, fv, fb, fd, fi, fz, fc⟩, halt, mem, result⟩ := s
  have keep : ∀ {p : Prop} (f : Bool), p → f = f := fun _ _ => rfl
  cases i with
  | lda _ | ldx _ | ldy _ | tax | tay | txa | tya | tsx | pla | plx | ply
  | and _ | ora _ | eor _ | inc _ | dec _ | inx | iny | dex | dey =>
    exact ⟨nofun, keep fv, keep fb, keep fd, keep fi, nofun, keep fc⟩
  | adc _ | sbc _ =>
    exact ⟨nofun, nofun, keep fb, keep fd, keep fi, nofun, nofun⟩
  | cmp _ | cpx _ | cpy _ | asl _ | lsr _ | rol _ | ror _ =>
    exact ⟨nofun, keep fv, keep fb, keep fd, keep fi, nofun, nofun⟩
  | bit o =>
    cases o with
    | imm _ => exact ⟨keep fn, keep fv, keep fb, keep fd, keep fi, nofun, keep fc⟩
    | mem _ => exact ⟨nofun, nofun, keep fb, keep fd, keep fi, nofun, keep fc⟩
  | trb _ | tsb _ => exact ⟨keep fn, keep fv, keep fb, keep fd, keep fi, nofun, keep fc⟩
  | clc | sec => exact ⟨keep fn, keep fv, keep fb, keep fd, keep fi, keep fz, nofun⟩
  | cld | sed => exact ⟨keep fn, keep fv, keep fb, nofun, keep fi, keep fz, keep fc⟩
  | cli | sei => exact ⟨keep fn, keep fv, keep fb, keep fd, nofun, keep fz, keep fc⟩
  | clv => exact ⟨keep fn, nofun, keep fb, keep fd, keep fi, keep fz, keep fc⟩
  | brk => exact ⟨keep fn, keep fv, nofun, nofun, nofun, keep fz, keep fc⟩
  | plp | rti => exact ⟨nofun, nofun, nofun, nofun, nofun, nofun, nofun⟩
  | _ => exact Flags.keptOutside_refl _ _

/-- Settles O48: the inversion lemma gives the flags of a next state, and a fault or a halted step carries them over. -/
theorem flagsChangeOnlyByTheirRules : Obligations.FlagsChangeOnlyByTheirRules := by
  refine ⟨fun i s t h => ?_, fun s t op h => ?_, fun s t hs h => ?_⟩
  · rw [(exec_leaves h).flags]
    exact flagsAfter_keptOutside i s
  · obtain ⟨-, op', -, hf⟩ := step_fault h
    obtain ⟨rfl, rfl⟩ := Fault.decodeError.inj hf
    rfl
  · obtain ⟨k, -, hk⟩ := step_of_halted hs
    obtain rfl := Host.Outcome.next.inj (hk.symm.trans h)
    rfl

theorem xor_ff_toNat (m : Byte) : (m ^^^ 0xFF).toNat = 255 - m.toNat := by
  rw [show m ^^^ 0xFF = ~~~m from BitVec.xor_allOnes, BitVec.toNat_not]

/-- The byte a compare tests is the difference. -/
theorem compare_byte (reg m : Byte) : BitVec.ofNat 8 (reg.toNat + (m ^^^ 0xFF).toNat + 1) = reg - m := by
  have := m.isLt
  apply BitVec.eq_of_toNat_eq
  rw [xor_ff_toNat, BitVec.toNat_ofNat, BitVec.toNat_sub]
  congr 1
  omega

/-- N and Z are those of a byte. -/
def Flags.Tests (f : Flags) (v : Byte) : Prop := f.n = decide (128 ≤ v.toNat) ∧ f.z = decide (v.toNat = 0)

theorem Flags.tests_of_eq {f : Flags} {v : Byte} (hn : f.n = v.getLsbD 7) (hz : f.z = (v == 0)) : f.Tests v := by
  constructor
  · rw [hn, ← BitVec.msb_eq_getLsbD_last v, BitVec.msb_eq_decide]
  · rw [hz, Bool.eq_iff_iff]
    simp [← BitVec.toNat_inj]

theorem Flags.setNZ_tests (f : Flags) (v : Byte) : (f.setNZ v).Tests v := Flags.tests_of_eq rfl rfl

theorem Flags.afterSum_tests (f : Flags) (r : Sum) : (f.afterSum r).Tests r.r := Flags.tests_of_eq rfl rfl

theorem Flags.compare_tests (f : Flags) (reg m : Byte) : (f.compare reg m).Tests (reg - m) :=
  compare_byte reg m ▸ Flags.tests_of_eq rfl rfl

/-- INC, DEC, the shifts and the rotates perform SetNZ on the byte they make. -/
theorem rmwFunction_tests {i : Instr} (s : State) (m : Byte) (f : Flags)
    (hi : ∃ o, i ∈ [Instr.inc o, .dec o, .asl o, .lsr o, .rol o, .ror o]) :
    (rmwFunction i s m f).2.Tests (rmwFunction i s m f).1 := by
  obtain ⟨o, hi⟩ := hi
  fin_cases hi <;> exact Flags.tests_of_eq rfl rfl

theorem tests_of_written {f : Flags} {v : Byte} (h : f.Tests v) {m : Memory} {a : Word} :
    f.Tests ((m.write a v).read a) := by
  rwa [Memory.read_write_self]

/-- Settles O49, by the byte an instruction tests: A, X, Y, a difference, the byte of memory it wrote, or none. -/
theorem setNZTestsTheWrittenByte : Obligations.SetNZTestsTheWrittenByte := by
  intro i s t h
  have left := exec_leaves h
  cases i with
  | lda _ | txa | tya | pla | and _ | ora _ | eor _ =>
    change t.flags.Tests t.a
    rw [left.flags, left.a]
    exact Flags.setNZ_tests _ _
  | adc _ | sbc _ =>
    change t.flags.Tests t.a
    rw [left.flags, left.a]
    exact Flags.afterSum_tests _ _
  | ldx _ | tax | tsx | plx | inx | dex =>
    change t.flags.Tests t.x
    rw [left.flags, left.x]
    exact Flags.setNZ_tests _ _
  | ldy _ | tay | ply | iny | dey =>
    change t.flags.Tests t.y
    rw [left.flags, left.y]
    exact Flags.setNZ_tests _ _
  | cmp _ | cpx _ | cpy _ =>
    change t.flags.Tests _
    rw [left.flags]
    exact Flags.compare_tests _ _ _
  | inc o | dec o | asl o | lsr o | rol o | ror o =>
    cases o with
    | acc =>
      change t.flags.Tests t.a
      rw [left.flags, left.a]
      exact rmwFunction_tests s s.a s.flags ⟨.acc, by simp⟩
    | mem m =>
      change t.flags.Tests (t.mem.read (resolve m s).ea)
      rw [left.flags, left.mem]
      exact tests_of_written (rmwFunction_tests s _ s.flags ⟨.mem m, by simp⟩)
  | bit _ | plp | rti => trivial
  | trb _ | tsb _ =>
    change t.flags.n = s.flags.n
    rw [left.flags]
    rfl
  | _ =>
    change t.flags.n = s.flags.n ∧ t.flags.z = s.flags.z
    rw [left.flags]
    exact ⟨rfl, rfl⟩

theorem Flags.toByte_toNat (f : Flags) : f.toByte.toNat = 128 * f.n.toNat + 64 * f.v.toNat + 32 + 16 * f.b.toNat
    + 8 * f.d.toNat + 4 * f.i.toNat + 2 * f.z.toNat + f.c.toNat := by
  obtain ⟨n, v, b, d, i, z, c⟩ := f
  revert n v b d i z c
  decide

theorem Flags.ofByte_toByte (f : Flags) : Flags.ofByte f.toByte = f := by
  obtain ⟨n, v, b, d, i, z, c⟩ := f
  revert n v b d i z c
  decide

theorem Flags.toByte_ofByte : ∀ b : Byte, (Flags.ofByte b).toByte = b ||| 0x20 := by decide

/-- Settles O42. -/
theorem statusByteLayout : Obligations.StatusByteLayout :=
  ⟨fun f => ⟨f.toByte_toNat, f.ofByte_toByte⟩, Flags.toByte_ofByte⟩

end Sys2Proof.Machine
end

section
/-! SUPPORT. I, B and D gate nothing but PHP, BRK, ADC and SBC (10_state.md R25). -/

namespace Sys2Proof.Machine

/-- Settles O52: both runs compute to the same record but for the flag. A branch needs its condition as given, and BIT
and the read-modify-write instructions the form of their operand. -/
theorem inertFlagsDoNotInfluence : Obligations.InertFlagsDoNotInfluence := by
  intro i s t v hphp hbrk h
  obtain ⟨a, x, y, sp, pc, ⟨fn, fv, fb, fd, fi, fz, fc⟩, halt, mem, result⟩ := s
  cases i with
  | php => exact absurd rfl hphp
  | brk => exact absurd rfl hbrk
  | unassigned op => nomatch h
  | adc o =>
    obtain rfl := Host.Outcome.next.inj h
    exact ⟨⟨_, rfl, rfl⟩, ⟨_, rfl, rfl⟩, fun hadc _ => absurd rfl (hadc o)⟩
  | sbc o =>
    obtain rfl := Host.Outcome.next.inj h
    exact ⟨⟨_, rfl, rfl⟩, ⟨_, rfl, rfl⟩, fun _ hsbc => absurd rfl (hsbc o)⟩
  | bit o =>
    obtain rfl := Host.Outcome.next.inj h
    cases o <;> exact ⟨⟨_, rfl, rfl⟩, ⟨_, rfl, rfl⟩, fun _ _ => ⟨_, rfl, rfl⟩⟩
  | inc o | dec o | asl o | lsr o | rol o | ror o =>
    obtain rfl := Host.Outcome.next.inj h
    cases o <;> exact ⟨⟨_, rfl, rfl⟩, ⟨_, rfl, rfl⟩, fun _ _ => ⟨_, rfl, rfl⟩⟩
  | bcc _ | bcs _ | beq _ | bne _ | bmi _ | bpl _ | bvc _ | bvs _
  | bbr0 _ _ | bbr1 _ _ | bbr2 _ _ | bbr3 _ _ | bbr4 _ _ | bbr5 _ _ | bbr6 _ _ | bbr7 _ _
  | bbs0 _ _ | bbs1 _ _ | bbs2 _ _ | bbs3 _ _ | bbs4 _ _ | bbs5 _ _ | bbs6 _ _ | bbs7 _ _ =>
    obtain ⟨_, _, _, rfl, run⟩ := branchIf_next h
    exact ⟨⟨_, run _, rfl⟩, ⟨_, run _, rfl⟩, fun _ _ => ⟨_, run _, rfl⟩⟩
  | _ =>
    obtain rfl := Host.Outcome.next.inj h
    exact ⟨⟨_, rfl, rfl⟩, ⟨_, rfl, rfl⟩, fun _ _ => ⟨_, rfl, rfl⟩⟩

end Sys2Proof.Machine
end

section
/-! SUPPORT. The invariant over steps, host moves and sessions; halted cores; the frames of the host's moves. -/

namespace Sys2Proof.Machine

theorem Memory.storeAll_keeps_wf {m : Memory} (h : m.wf = true) (as : List Word) (vs : List Byte) :
    (m.storeAll as vs).wf = true := by
  fun_induction Memory.storeAll m as vs with
  | case1 m a as v vs ih => exact ih (Memory.write_keeps_wf h a v)
  | case2 => exact h

/-- The count of an assigned instruction is one that the result port may show. -/
theorem Counted.agrees {i : Instr} {op : Byte} {r : Result} (hop : i.opcode = some op) (hass : op ∉ unassignedBytes)
    (h : Counted i r) : r.agrees .run = true := by
  obtain ⟨crossed, e, he, rfl⟩ := h
  have low := two_le_baseCyclesOf op hass
  have high := cycles_le_seven hop
  have page := pageExtra_le_pageCycle hop crossed
  rw [baseCycles_of_opcode hop]
  simp only [Result.agrees, beq_self_eq_true, Bool.true_and, Bool.and_eq_true, decide_eq_true_eq]
  omega

theorem State.fetch_opcode (s : State) : s.fetch.opcode = some (s.byteAt 0) := opcode_cellOf_instr _ _ _

theorem State.fetch_unassigned {s : State} (h : s.byteAt 0 ∈ unassignedBytes) :
    s.fetch = .unassigned (s.byteAt 0) := by
  rw [State.fetch, cellOf_unassigned _ h, Cell.instr]

/-- Only an assigned opcode byte gives a running core a next state. -/
theorem State.assigned_of_next {s t : State} (h : exec s.fetch s = .next t) : s.byteAt 0 ∉ unassignedBytes := by
  intro hm
  rw [State.fetch_unassigned hm] at h
  nomatch h

theorem step_next_keeps_inv {s t : State} (hs : s.Inv) (h : step s = .next t) : t.Inv := by
  obtain ⟨hwf, hres⟩ := hs
  by_cases hrun : s.halt = .run
  · rw [step_of_run hrun] at h
    have left := exec_leaves h
    refine ⟨left.mem ▸ Memory.storeAll_keeps_wf hwf _ _, ?_⟩
    cases hk : haltedBy s.fetch with
    | none =>
      obtain ⟨hhalt, hcount⟩ := left.running hk
      rw [hhalt, hrun]
      exact hcount.agrees s.fetch_opcode (State.assigned_of_next h)
    | some k =>
      obtain ⟨hhalt, hresult⟩ := left.halted k hk
      simp [hhalt, hresult, Result.agrees]
  · obtain ⟨k, hk, hstep⟩ := step_of_halted hrun
    obtain rfl := Host.Outcome.next.inj (hstep.symm.trans h)
    exact ⟨hwf, by simp [hk, Result.agrees]⟩

theorem step_fault_keeps_inv {s : State} {f : Fault} (hs : s.Inv) (h : step s = .fault f) : f.after.Inv := by
  obtain ⟨hwf, -⟩ := hs
  obtain ⟨hrun, op, hi, rfl⟩ := step_fault h
  have listed : unassignedBytes.contains op = true := unassigned_opcode (hi ▸ s.fetch_opcode)
  refine ⟨hwf, ?_⟩
  change (s.halt == .run && unassignedBytes.contains op) = true
  rw [hrun, listed]
  rfl

theorem hostMove_keeps_inv (h : HostMove) {s : State} (hs : s.Inv) : (hostMove h s).Inv := by
  obtain ⟨hwf, hres⟩ := hs
  cases h with
  | reset p => exact ⟨hwf, rfl⟩
  | setPC v => exact ⟨hwf, hres⟩
  | poke a v => exact ⟨Memory.write_keeps_wf hwf a v, hres⟩
  | clearMemory => exact ⟨Memory.empty_wf, hres⟩

theorem Event.apply_keeps_inv (e : Event) {s : State} (hs : s.Inv) : (e.apply s).Inv := by
  cases e with
  | host h => exact hostMove_keeps_inv h hs
  | step =>
    unfold Event.apply
    cases h : Machine.step s with
    | next t => exact step_next_keeps_inv hs h
    | fault f => exact step_fault_keeps_inv hs h
    | refused r => exact hs

/-- What each event of a session keeps, the session keeps. -/
theorem session_keeps {P : State → Prop} {es : List Event} {s : State}
    (keep : ∀ e ∈ es, ∀ u, P u → P (e.apply u)) (hs : P s) : P (session es s) := by
  induction es generalizing s with
  | nil => exact hs
  | cons e rest ih =>
    exact ih (fun e' he' => keep e' (List.mem_cons_of_mem _ he')) (keep e List.mem_cons_self s hs)

/-- Settles O58, by induction over the session. -/
theorem sessionsKeepTheInvariant : Obligations.SessionsKeepTheInvariant :=
  fun _ _ hs => session_keeps (fun e _ _ hu => e.apply_keeps_inv hu) hs

/-- `u` is halted as `s` is, with its registers and flags. -/
def State.HeldFrom (s u : State) : Prop :=
  u.halt = s.halt ∧ u.a = s.a ∧ u.x = s.x ∧ u.y = s.y ∧ u.sp = s.sp ∧ u.flags = s.flags

theorem Event.apply_step_of_halted {s : State} (h : s.halt ≠ .run) :
    ∃ k, Event.step.apply s = s.withResult (.halted k) := by
  obtain ⟨k, -, hk⟩ := step_of_halted h
  exact ⟨k, by rw [Event.apply, hk]⟩

theorem Event.apply_keeps_heldFrom {e : Event} {s u : State} (hs : s.halt ≠ .run) (he : e.isReset = false)
    (hu : s.HeldFrom u) : s.HeldFrom (e.apply u) := by
  cases e with
  | step =>
    obtain ⟨k, hk⟩ := Event.apply_step_of_halted (hu.1 ▸ hs)
    rw [hk]
    exact hu
  | host h =>
    cases h with
    | reset p => nomatch he
    | setPC v => exact hu
    | poke a v => exact hu
    | clearMemory => exact hu

/-- Settles O55, by induction over the session: no event but `Reset` ends the hold. -/
theorem onlyResetEndsAHalt : Obligations.OnlyResetEndsAHalt := by
  intro es s hs hes
  have start : s.HeldFrom s := ⟨rfl, rfl, rfl, rfl, rfl, rfl⟩
  exact session_keeps (P := s.HeldFrom) (fun e he _ hu => Event.apply_keeps_heldFrom hs (hes e he) hu) start

/-- Settles O54: each move is one field update, and a poke is one write of memory. -/
theorem hostMovesTouchNothingElse : Obligations.HostMovesTouchNothingElse :=
  fun s _ a b => ⟨rfl, ⟨rfl, fun k => s.mem.read_write a k b⟩, rfl, fun _ => rfl⟩

end Sys2Proof.Machine
end

section
/-! SUPPORT. Memory and the stack page: canonical memories are fixed by their reads (20_memory.md R50, R65), a push and a
pull (R57, R58), and the frame of memory over the instruction set (R66). -/

namespace Sys2Proof.Machine

theorem Memory.wfFrom_cons_iff {low k : Nat} {v : Byte} {rest : Memory} :
    Memory.wfFrom low ((k, v) :: rest) = true
      ↔ low ≤ k ∧ k < 65536 ∧ v ≠ Config.unlistedByte ∧ Memory.wfFrom (k + 1) rest = true := by
  simp [Memory.wfFrom, and_assoc]

theorem Memory.lookup_cons_self (k : Nat) (v : Byte) (rest : Memory) : Memory.lookup ((k, v) :: rest) k = v := by
  simp [Memory.lookup]

theorem Memory.lookup_cons_other {j k : Nat} (h : j ≠ k) (v : Byte) (rest : Memory) :
    Memory.lookup ((j, v) :: rest) k = Memory.lookup rest k := by
  simp [Memory.lookup, h]

/-- The first cell's own address is a lower bound as good as any. -/
theorem Memory.wfFrom_head {low k : Nat} {v : Byte} {rest : Memory} (h : Memory.wfFrom low ((k, v) :: rest) = true) :
    Memory.wfFrom k ((k, v) :: rest) = true :=
  Memory.wfFrom_cons_iff.mpr ⟨Nat.le_refl k, (Memory.wfFrom_cons_iff.mp h).2⟩

/-- Below its lower bound a canonical memory lists nothing. -/
theorem Memory.lookup_below {low k : Nat} {m : Memory} (h : m.wfFrom low = true) (hk : k < low) :
    m.lookup k = Config.unlistedByte := by
  induction m generalizing low with
  | nil => rfl
  | cons c rest ih =>
    obtain ⟨j, w⟩ := c
    obtain ⟨hj, -, -, hrest⟩ := Memory.wfFrom_cons_iff.mp h
    rw [Memory.lookup_cons_other (by omega)]
    exact ih hrest (by omega)

/-- A listed first cell is seen by a read, so a memory that reads the same cannot lie above it. -/
theorem Memory.bound_le_head {low low' j : Nat} {w : Byte} {rest m' : Memory}
    (h : Memory.wfFrom low ((j, w) :: rest) = true) (h' : m'.wfFrom low' = true)
    (same : Memory.lookup ((j, w) :: rest) j = m'.lookup j) : low' ≤ j := by
  obtain ⟨-, -, hw, -⟩ := Memory.wfFrom_cons_iff.mp h
  by_contra hlt
  rw [Memory.lookup_cons_self, Memory.lookup_below h' (by omega)] at same
  exact hw same

/-- Two canonical memories that list the same byte at every address are one list of cells. -/
theorem Memory.eq_of_lookup_eq {low : Nat} {m m' : Memory} (h : m.wfFrom low = true) (h' : m'.wfFrom low = true)
    (same : ∀ k < 65536, m.lookup k = m'.lookup k) : m = m' := by
  induction m generalizing low m' with
  | nil =>
    cases m' with
    | nil => rfl
    | cons c' rest' =>
      obtain ⟨j', w'⟩ := c'
      obtain ⟨-, hj', -, -⟩ := Memory.wfFrom_cons_iff.mp h'
      have above : j' + 1 ≤ j' := Memory.bound_le_head h' (m' := []) rfl (same j' hj').symm
      omega
  | cons c rest ih =>
    obtain ⟨j, w⟩ := c
    obtain ⟨-, hj, -, hrest⟩ := Memory.wfFrom_cons_iff.mp h
    cases m' with
    | nil =>
      have above : j + 1 ≤ j := Memory.bound_le_head h (m' := []) rfl (same j hj)
      omega
    | cons c' rest' =>
      obtain ⟨j', w'⟩ := c'
      obtain ⟨-, hj', -, hrest'⟩ := Memory.wfFrom_cons_iff.mp h'
      have heads : j = j' := Nat.le_antisymm
        (Memory.bound_le_head h' (Memory.wfFrom_head h) (same j' hj').symm)
        (Memory.bound_le_head h (Memory.wfFrom_head h') (same j hj))
      subst heads
      have bytes : w = w' := by simpa only [Memory.lookup_cons_self] using same j hj
      have tails : rest = rest' := by
        refine ih hrest hrest' fun k hk => ?_
        by_cases hkj : j = k
        · rw [Memory.lookup_below hrest (by omega), Memory.lookup_below hrest' (by omega)]
        · simpa only [Memory.lookup_cons_other hkj] using same k hk
      rw [bytes, tails]

/-- Settles O14: every address below 65536 is the number of a word, so equal reads are equal look-ups. -/
theorem canonicalMemoriesWithEqualReadsAreEqual : Obligations.CanonicalMemoriesWithEqualReadsAreEqual := by
  intro m m' h h' same
  refine Memory.eq_of_lookup_eq h h' fun k hk => ?_
  have read := same (BitVec.ofNat 16 k)
  rwa [Memory.read, Memory.read, BitVec.toNat_ofNat, Nat.mod_eq_of_lt hk] at read

/-- A stack address lies in page one (10_state.md R24). -/
theorem stackAddress_toNat (sp : Byte) : (stackAddress sp).toNat = 0x100 + sp.toNat := by
  have := sp.isLt
  have base : (0x0100 : Word).toNat = 0x100 := rfl
  rw [stackAddress, BitVec.toNat_add, base, zext16_toNat]
  omega

theorem eq_stackAddress_iff (a : Word) (sp : Byte) : a = stackAddress sp ↔ a.toNat = 0x100 + sp.toNat := by
  rw [← BitVec.toNat_inj, stackAddress_toNat]

/-- Settles O12: a push is one write at the stack address, and a decrement. -/
theorem pushStoresThenDecrements : Obligations.PushStoresThenDecrements := by
  intro s v
  rw [State.push_eq]
  refine ⟨rfl, ?_, fun a => ?_⟩
  · simp [BitVec.toNat_sub, Nat.add_comm]
  · simp only [Memory.read_write, eq_stackAddress_iff]

/-- A pull reads page one at the incremented SP (20_memory.md R58). -/
theorem State.top_toNat (s : State) : s.top.toNat = s.byteNat (0x100 + (s.sp.toNat + 1) % 256) := by
  rw [State.top, Memory.read, stackAddress_toNat]
  rfl

/-- Settles O13: the pull's increment takes SP back to the address of the push. -/
theorem pullUndoesPush : Obligations.PullUndoesPush := by
  intro s v
  obtain ⟨htop, hsp⟩ := State.pop_push s v
  refine ⟨htop, ?_, s.top_toNat, rfl⟩
  calc { (s.push v).pop with mem := s.mem }
      = { s with sp := (s.push v).pop.sp } := rfl
    _ = s := by rw [hsp]

/-- Stores leave every address outside their list as it was. -/
theorem Memory.read_storeAll_other {m : Memory} {as : List Word} {vs : List Byte} {b : Word} (h : b ∉ as) :
    (m.storeAll as vs).read b = m.read b := by
  fun_induction Memory.storeAll m as vs with
  | case1 m a as v vs ih =>
    exact (ih (List.not_mem_of_not_mem_cons h)).trans (m.read_write_other v (List.ne_of_not_mem_cons h))
  | case2 => rfl

/-- Settles O51, from the inversion lemma: memory after an instruction is memory with its stores made in order. -/
theorem memoryChangesOnlyWhereStored : Obligations.MemoryChangesOnlyWhereStored := by
  intro i s t h a ha
  rw [(exec_leaves h).mem]
  exact Memory.read_storeAll_other ha

end Sys2Proof.Machine
end

section
/-! SUPPORT. From the list of R76 back to the matrix of R75: the cell of a listed opcode byte, and what it reads. -/

namespace Sys2Proof

/-! The cell of a mode, for an instruction of each operand form. -/

def Cell.ofMem (mk : MemOperand → Instr) : Mode → Cell
  | .abs => .abs mk
  | .abx => .abx mk
  | .aby => .aby mk
  | .zp => .zp mk
  | .zpx => .zpx mk
  | .zpy => .zpy mk
  | .izx => .izx mk
  | .izp => .izp mk
  | .izy => .izy mk
  | .ind | .iax | .acc | .imm | .imp | .rel | .zpr | .stk => .unassigned

def Cell.ofSrc (mk : Src → Instr) : Mode → Cell
  | .imm => .imm mk
  | m => .ofMem (rd mk) m

def Cell.ofRmw (mk : Rmw → Instr) : Mode → Cell
  | .acc => .acc mk
  | m => .ofMem (rm mk) m

def Cell.ofTarget (mk : Target → Instr) : Mode → Cell
  | .abs => .f3 fun w => mk (.abs w)
  | .ind => .f3 fun w => mk (.ind w)
  | .iax => .f3 fun w => mk (.iax w)
  | _ => .unassigned

theorem Cell.ofSrc_mem (mk : Src → Instr) (m : MemOperand) : Cell.ofSrc mk m.mode = Cell.ofMem (rd mk) m.mode := by
  cases m <;> rfl

theorem Cell.ofRmw_mem (mk : Rmw → Instr) (m : MemOperand) : Cell.ofRmw mk m.mode = Cell.ofMem (rm mk) m.mode := by
  cases m <;> rfl

/-- An opcode byte found in a list stands there beside its mode. -/
theorem row_mem_of_opcodeFor {rows : List (Mode × Byte)} {m : Mode} {op : Byte} (h : opcodeFor rows m = some op) :
    (m, op) ∈ rows := by
  fun_induction opcodeFor rows m with
  | case1 => nomatch h
  | case2 op' rest =>
    obtain rfl := Option.some.inj h
    exact List.mem_cons_self
  | case3 k op' rest hne ih => exact List.mem_cons_of_mem _ (ih h)

/-- Where the matrix agrees with the list of a mnemonic row by row, it holds the cell of the mode that was looked up. -/
theorem cellOf_of_opcodeFor {rows : List (Mode × Byte)} {cell : Mode → Cell} {m : Mode} {op : Byte}
    (agree : rows.map (fun row => cellOf row.2) = rows.map fun row => cell row.1) (h : opcodeFor rows m = some op) :
    cellOf op = cell m :=
  List.map_inj_left.mp agree (m, op) (row_mem_of_opcodeFor h)

theorem decode_mem {mk : MemOperand → Instr} {m : MemOperand} {op : Byte} (h : cellOf op = .ofMem mk m.mode)
    (rest : List Byte) : decode (op :: (m.bytes ++ rest)) = .ok (mk m, rest) := by
  cases m with
  | abs w | abx w | aby w => exact decode_f3 h
  | zp z | zpx z | zpy z | izx z | izp z | izy z => exact decode_f2 h

theorem decode_src {mk : Src → Instr} {o : Src} {op : Byte} (h : cellOf op = .ofSrc mk o.mode)
    (rest : List Byte) : decode (op :: (o.bytes ++ rest)) = .ok (mk o, rest) := by
  cases o with
  | imm v => exact decode_f2 h
  | mem m => exact decode_mem (h.trans (Cell.ofSrc_mem mk m)) rest

theorem decode_rmw {mk : Rmw → Instr} {o : Rmw} {op : Byte} (h : cellOf op = .ofRmw mk o.mode)
    (rest : List Byte) : decode (op :: (o.bytes ++ rest)) = .ok (mk o, rest) := by
  cases o with
  | acc => exact decode_f1 h
  | mem m => exact decode_mem (h.trans (Cell.ofRmw_mem mk m)) rest

theorem decode_target {mk : Target → Instr} {t : Target} {op : Byte} (h : cellOf op = .ofTarget mk t.mode)
    (rest : List Byte) : decode (op :: (t.bytes ++ rest)) = .ok (mk t, rest) := by
  cases t <;> exact decode_f3 h

/-- A listed opcode byte and the operand bytes are read back as the instruction. For a mnemonic with several modes,
`rfl` compares its list with the matrix; the other mnemonics have one byte each. -/
theorem decode_opcode_operands {i : Instr} {op : Byte} (h : i.opcode = some op) (rest : List Byte) :
    decode (op :: (i.operands ++ rest)) = .ok (i, rest) := by
  cases i with
  | lda _ | ldx _ | ldy _ | adc _ | sbc _ | cmp _ | cpx _ | cpy _ | and _ | ora _ | eor _ | bit _ =>
    exact decode_src (cellOf_of_opcodeFor rfl h) rest
  | sta _ | stx _ | sty _ | stz _ | trb _ | tsb _ => exact decode_mem (cellOf_of_opcodeFor rfl h) rest
  | inc _ | dec _ | asl _ | lsr _ | rol _ | ror _ => exact decode_rmw (cellOf_of_opcodeFor rfl h) rest
  | jmp _ => exact decode_target (cellOf_of_opcodeFor rfl h) rest
  | jsr w =>
    obtain rfl := Option.some.inj h
    exact decode_f3 rfl
  | unassigned b =>
    obtain ⟨listed, rfl⟩ : b ∈ unassignedBytes ∧ b = op := by simpa [Instr.opcode] using h
    exact decode_unassigned (cellOf_unassigned b listed)
  | _ =>
    obtain rfl := Option.some.inj h
    rfl

end Sys2Proof
end

section
/-! SUPPORT. From the matrix of R75 to the list of R76: what a cell reads, and its operand bytes and mode. -/

namespace Sys2Proof

theorem wordBytes_wordOf (lo hi : Byte) : wordBytes (wordOf lo hi) = [lo, hi] := by
  rw [wordBytes, Machine.loByte_wordOf, Machine.hiByte_wordOf]

/-- The operand bytes a cell takes when the next two bytes are `b1` and `b2`. -/
def Cell.operands (c : Cell) (b1 b2 : Byte) : List Byte :=
  match c with
  | .unassigned | .f1 _ => []
  | .f2 _ => [b1]
  | .f3 _ => wordBytes (wordOf b1 b2)
  | .f3r _ => [b1, b2]

/-- What a cell reads is the instruction of its operand bytes, and it takes those bytes and no others. -/
theorem Cell.read_ok {c : Cell} {op : Byte} {tail rest : List Byte} {i : Instr} (h : c.read op tail = .ok (i, rest)) :
    ∃ b1 b2, i = c.instr op b1 b2 ∧ tail = c.operands b1 b2 ++ rest := by
  unfold Cell.read at h
  split at h <;> cases h
  case h_1 | h_2 => exact ⟨0, 0, rfl, rfl⟩
  case h_3 mk d => exact ⟨d, 0, rfl, rfl⟩
  case h_4 mk lo hi => exact ⟨lo, hi, rfl, by rw [Cell.operands, wordBytes_wordOf]; rfl⟩
  case h_5 mk z r => exact ⟨z, r, rfl, rfl⟩

theorem exists_eq_ofNat (op : Byte) : ∃ n < 256, op = BitVec.ofNat 8 n := ⟨op.toNat, op.isLt, by simp⟩

/-- A finite check of the 256 cells, each for all operand bytes at once. -/
theorem operands_cellOf_instr (op b1 b2 : Byte) :
    ((cellOf op).instr op b1 b2).operands = (cellOf op).operands b1 b2 := by
  obtain ⟨n, hn, rfl⟩ := exists_eq_ofNat op
  interval_cases n <;> rfl

/-- The addressing mode of an opcode byte; none of an unassigned one. -/
def modeOf (op : Byte) : Option Mode := ((cellOf op).instr op 0 0).mode

/-- The operand bytes do not change the mode: a finite check of the 256 cells. -/
theorem mode_cellOf_instr (op b1 b2 : Byte) : ((cellOf op).instr op b1 b2).mode = modeOf op := by
  obtain ⟨n, hn, rfl⟩ := exists_eq_ofNat op
  interval_cases n <;> rfl

/-- The decoder reads the opcode byte's instruction, with its operand bytes. -/
theorem decode_ok {bytes rest : List Byte} {i : Instr} (h : decode bytes = .ok (i, rest)) :
    ∃ op b1 b2, i = (cellOf op).instr op b1 b2 ∧ bytes = op :: ((cellOf op).operands b1 b2 ++ rest) := by
  cases bytes with
  | nil => nomatch h
  | cons op tail =>
    obtain ⟨b1, b2, hi, rfl⟩ := Cell.read_ok h
    exact ⟨op, b1, b2, hi, rfl⟩

/-- An opcode byte gives the mode of every instruction that has it. -/
theorem mode_of_opcode {i : Instr} {op : Byte} (h : i.opcode = some op) : i.mode = modeOf op := by
  obtain ⟨b1, b2, hi, -⟩ := Cell.read_ok (decode_opcode_operands h [])
  rw [hi, mode_cellOf_instr]

end Sys2Proof
end

section
/-! SUPPORT. The terms with an opcode byte are the well-formed ones, and their encoding is as long as the mode says. -/

namespace Sys2Proof

/-- The modes of a mnemonic in `Instr.wf` are those of its list in R76, each found by evaluation. -/
theorem opcode_isSome (i : Instr) : i.opcode.isSome = i.wf := by
  cases i with
  | lda o | ldx o | ldy o | adc o | sbc o | cmp o | cpx o | cpy o | and o | ora o | eor o | bit o =>
    cases o with
    | imm v => rfl
    | mem m => cases m <;> rfl
  | sta m | stx m | sty m | stz m | trb m | tsb m => cases m <;> rfl
  | inc o | dec o | asl o | lsr o | rol o | ror o =>
    cases o with
    | acc => rfl
    | mem m => cases m <;> rfl
  | jmp t => cases t <;> rfl
  | unassigned op =>
    rw [Instr.opcode, Instr.wf]
    cases unassignedBytes.contains op <;> rfl
  | _ => rfl

theorem opcode_of_wf {i : Instr} (h : i.wf = true) : ∃ op, i.opcode = some op :=
  Option.isSome_iff_exists.mp ((opcode_isSome i).trans h)

theorem wf_of_opcode {i : Instr} {op : Byte} (h : i.opcode = some op) : i.wf = true := by
  rw [← opcode_isSome, h, Option.isSome_some]

theorem encode_of_opcode {i : Instr} {op : Byte} (h : i.opcode = some op) : encode i = some (op :: i.operands) := by
  rw [encode, h, Option.map_some]

/-- An encoding is as long as its mode says (30_encoding.md R70). -/
theorem operands_length (i : Instr) : i.operands.length + 1 = i.length := by
  rw [Nat.add_comm]
  cases i with
  | lda o | ldx o | ldy o | adc o | sbc o | cmp o | cpx o | cpy o | and o | ora o | eor o | bit o =>
    exact congrArg (1 + ·) (Laws.EncodedLength.ofSrc o)
  | sta m | stx m | sty m | stz m | trb m | tsb m => exact congrArg (1 + ·) (Laws.EncodedLength.ofMem m)
  | inc o | dec o | asl o | lsr o | rol o | ror o => exact congrArg (1 + ·) (Laws.EncodedLength.ofRmw o)
  | jmp t => exact congrArg (1 + ·) (Laws.EncodedLength.ofTarget t)
  | _ => rfl

/-- Settles O3: the two tables give each mnemonic the same modes. -/
theorem wellFormedMeansEncodable : Obligations.WellFormedMeansEncodable := by
  intro i
  rw [opcode_isSome]

/-- Settles O1: a well-formed instruction has an opcode byte, whose cell reads its operand bytes back. -/
theorem decodeOfEncodeGivesTheInstruction : Obligations.DecodeOfEncodeGivesTheInstruction := by
  intro i rest h
  obtain ⟨op, hop⟩ := opcode_of_wf h
  exact ⟨op :: i.operands, encode_of_opcode hop, operands_length i, decode_opcode_operands hop rest⟩

/-- Settles O2: the matrix gives what it reads the opcode byte and the operand bytes that were there. -/
theorem encodeOfDecodeGivesTheBytes : Obligations.EncodeOfDecodeGivesTheBytes := by
  intro bytes rest i h
  obtain ⟨op, b1, b2, rfl, rfl⟩ := decode_ok h
  have hop := opcode_cellOf_instr op b1 b2
  exact ⟨wf_of_opcode hop, _, encode_of_opcode hop, by rw [operands_cellOf_instr, List.cons_append]⟩

/-- Settles O4: both have the mode of their common opcode byte, and the length is a function of the mode. -/
theorem opcodeFixesModeAndLength : Obligations.OpcodeFixesModeAndLength := by
  intro i j hi same
  obtain ⟨op, hop⟩ := Option.isSome_iff_exists.mp hi
  have modes : i.mode = j.mode := (mode_of_opcode hop).trans (mode_of_opcode (same ▸ hop)).symm
  exact ⟨modes, by rw [Instr.length, Instr.length, modes]⟩

/-- An instruction's own bytes, with none after them, decode to it. -/
theorem decode_own_bytes (i : Instr) {op : Byte} (h : i.opcode = some op) : decode (op :: i.operands) = .ok (i, []) := by
  simpa using decode_opcode_operands h []

/-- Settles O5: each word is the opcode byte of R76 (or a byte of R77) and the operand bytes of its instruction. -/
theorem specWordsDecode : Obligations.SpecWordsDecode :=
  ⟨decode_own_bytes (.lda (.imm 0xFA)) rfl, decode_own_bytes (.sta (.abx 0x20F0)) rfl,
    decode_own_bytes (.adc (.imm 0x50)) rfl, decode_own_bytes (.and (.mem (.izp 0x00))) rfl,
    decode_own_bytes (.rmb3 0x12) rfl, decode_own_bytes (.bbr3 0x12 0x0D) rfl,
    decode_own_bytes (.jmp (.iax 0x1234)) rfl, decode_own_bytes .pha rfl,
    decode_own_bytes .brk rfl, decode_own_bytes (.unassigned 0x02) rfl⟩

/-- Settles O6: the fetch reads what the decoder reads. -/
theorem stepRunsTheDecodedInstruction : Obligations.StepRunsTheDecodedInstruction := by
  intro s i rest hrun h
  obtain ⟨tail, fetched⟩ := s.fetch_decodes
  obtain ⟨rfl, -⟩ := Prod.mk.inj (Except.ok.inj (fetched.symm.trans h))
  exact Machine.step_of_run hrun

end Sys2Proof
end

section
/-! SUPPORT. The addressing modes as arithmetic over numbers (40_addressing_modes.md R90 to R110). -/

namespace Sys2Proof.Machine

/-- A pointer depends on its zero-page address only modulo 2^8 (20_memory.md R52, R56). -/
theorem State.pointerNat_mod (s : State) (p : Nat) : s.pointerNat (p % 256) = s.pointerNat p := by
  simp only [State.pointerNat, Nat.mod_mod, Nat.mod_add_mod]

theorem State.read16ZP_toNat_eq_pointerNat (s : State) (z : Byte) :
    (s.mem.read16ZP z).toNat = s.pointerNat z.toNat := by
  rw [read16ZP_toNat, State.pointerNat, Nat.mod_eq_of_lt z.isLt]
  rfl

theorem resolve_ea_toNat (m : MemOperand) (s : State) : (resolve m s).ea.toNat = addressNat m s := by
  cases m with
  | abs w => rfl
  | abx w => exact indexedHandle_ea_toNat w s.x
  | aby w => exact indexedHandle_ea_toNat w s.y
  | zp z => exact zext16_toNat z
  | zpx z => exact (zext16_toNat (z + s.x)).trans (BitVec.toNat_add z s.x)
  | zpy z => exact (zext16_toNat (z + s.y)).trans (BitVec.toNat_add z s.y)
  | izx z =>
    calc (s.mem.read16ZP (z + s.x)).toNat
        = s.pointerNat ((z.toNat + s.x.toNat) % 256) := by
          rw [State.read16ZP_toNat_eq_pointerNat, BitVec.toNat_add]
      _ = s.pointerNat (z.toNat + s.x.toNat) := s.pointerNat_mod _
  | izp z => exact s.read16ZP_toNat_eq_pointerNat z
  | izy z =>
    calc (indexedHandle (s.mem.read16ZP z) s.y).ea.toNat
        = ((s.mem.read16ZP z).toNat + s.y.toNat) % 65536 := indexedHandle_ea_toNat _ _
      _ = (s.pointerNat z.toNat + s.y.toNat) % 65536 := by rw [State.read16ZP_toNat_eq_pointerNat]

theorem readSrc_mem_toNat (m : MemOperand) (s : State) :
    (readSrc (.mem m) s).toNat = s.byteNat (addressNat m s) := by
  rw [readSrc_mem, Memory.read, resolve_ea_toNat, State.byteNat]

/-- Settles O10: the resolvers give the addresses of the arithmetic, and an operand is read there. -/
theorem effectiveAddressesAreTheModes : Obligations.EffectiveAddressesAreTheModes :=
  fun s => ⟨fun m => ⟨resolve_ea_toNat m s, readSrc_mem_toNat m s⟩, fun v => readSrc_imm v s⟩

/-- The high byte of a sum differs from the base's exactly when the low byte overflows: the index is below 256, so the
page number rises by at most one, and modulo 256 pages that is another page. -/
theorem indexedHandle_crossed (base : Word) (index : Byte) :
    (indexedHandle base index).crossed = decide (256 ≤ base.toNat % 256 + index.toNat) := by
  have hbase := base.isLt
  have hindex := index.isLt
  have pages : (indexedHandle base index).crossed
      = (base.toNat / 256 != (base.toNat + index.toNat) % 65536 / 256) := by
    rw [← indexedHandle_ea_toNat]
    exact pagecross_eq _ _
  rw [pages, Bool.eq_iff_iff, bne_iff_ne, decide_eq_true_iff]
  omega

/-- Settles O11: only the three indexed 16-bit modes have an index to carry, and (zp),Y has its pointer as the base. -/
theorem pageCrossIsCarryOutOfLowByte : Obligations.PageCrossIsCarryOutOfLowByte := by
  intro m s
  cases m with
  | abx w => exact indexedHandle_crossed w s.x
  | aby w => exact indexedHandle_crossed w s.y
  | izy z =>
    calc (indexedHandle (s.mem.read16ZP z) s.y).crossed
        = decide (256 ≤ (s.mem.read16ZP z).toNat % 256 + s.y.toNat) := indexedHandle_crossed _ _
      _ = decide (256 ≤ s.pointerNat z.toNat % 256 + s.y.toNat) := by rw [State.read16ZP_toNat_eq_pointerNat]
  | abs _ | zp _ | zpx _ | zpy _ | izx _ | izp _ => rfl

end Sys2Proof.Machine
end

section
/-! SUPPORT. The cycles of a read operand and of a store, from the rows that the list of 30_encoding.md R76 gives a
mnemonic (70_reset_and_hazards.md R304 to R306). -/

namespace Sys2Proof

/-- The modes that add an index to a 16-bit base, which alone can cross a page (40_addressing_modes.md R110). -/
def Mode.addsIndex : Mode → Bool
  | .abx | .aby | .izy => true
  | _ => false

/-- The cycles of a read through a mode when no page is crossed; 0 for a mode that names no data. -/
def Mode.readCycles : Mode → Nat
  | .imm => 2
  | .zp => 3
  | .zpx | .zpy | .abs | .abx | .aby => 4
  | .izp | .izy => 5
  | .izx => 6
  | _ => 0

namespace Machine

/-- An opcode byte that costs what a read through its mode costs, and is in `PAGEX` when the mode adds an index. -/
def chargedAsRead (row : Mode × Byte) : Bool :=
  baseCyclesOf row.2 == row.1.readCycles && pagex.contains row.2 == row.1.addsIndex

/-- An opcode byte whose base count includes the cycle of the index, page crossed or not, and that is not in `PAGEX`. -/
def chargedAsStore (row : Mode × Byte) : Bool :=
  baseCyclesOf row.2 == row.1.readCycles + row.1.addsIndex.toNat && !pagex.contains row.2

theorem pageExtra_of_opcode {i : Instr} {op : Byte} (h : i.opcode = some op) (crossed : Bool) :
    pageExtra i crossed = (pagex.contains op && crossed).toNat := by
  rw [pageExtra, chargesPageCross, h, Bool.toNat, Bool.cond_eq_ite]

theorem plusIf_eq (n : Nat) (cond : Bool) : plusIf n cond = n + cond.toNat := by cases cond <;> rfl

theorem readCost_eq (o : Src) (s : State) :
    readCost o s = o.mode.readCycles + (o.mode.addsIndex && srcCrossed o s).toNat := by
  cases o with
  | imm _ => rfl
  | mem m =>
    rw [srcCrossed, pageCrossIsCarryOutOfLowByte m s]
    cases m with
    | abx _ | aby _ | izy _ => exact plusIf_eq _ _
    | abs _ | zp _ | zpx _ | zpy _ | izx _ | izp _ => rfl

theorem storeCost_eq (m : MemOperand) : storeCost m = m.mode.readCycles + m.mode.addsIndex.toNat := by
  cases m <;> rfl

/-- A well-formed instruction has its opcode byte in a row of its mnemonic's list, so what holds of every row holds
of it. -/
theorem row_of_wf {i : Instr} {m : Mode} {rows : List (Mode × Byte)} {p : Mode × Byte → Bool}
    (listed : i.opcode = opcodeFor rows m) (charged : rows.all p = true) (h : i.wf = true) :
    ∃ op, i.opcode = some op ∧ p (m, op) = true := by
  obtain ⟨op, hop⟩ := opcode_of_wf h
  exact ⟨op, hop, List.all_eq_true.mp charged _ (row_mem_of_opcodeFor (listed ▸ hop))⟩

/-- What a well-formed instruction that reads its operand answers, with the cycles of the operand. -/
theorem withOperand_readCost {i : Instr} {o : Src} {rows : List (Mode × Byte)}
    (listed : i.opcode = opcodeFor rows o.mode) (charged : rows.all chargedAsRead = true) (h : i.wf = true)
    (extra : Nat) (act : Byte → State → State) (s : State) :
    withOperand i o extra act s
      = .next ((act (readSrc o s) (s.past i)).withResult (.cycles (readCost o s + extra))) := by
  obtain ⟨op, hop, hrow⟩ := row_of_wf listed charged h
  obtain ⟨hbase, hpage⟩ : baseCyclesOf op = o.mode.readCycles ∧ pagex.contains op = o.mode.addsIndex := by
    simpa only [chargedAsRead, Bool.and_eq_true, beq_iff_eq] using hrow
  rw [withOperand_eq, ← Nat.add_assoc, baseCycles_of_opcode hop, pageExtra_of_opcode hop, hbase, hpage, readCost_eq]

/-- What a well-formed store answers: the byte stored, PC past the instruction, and the cycles of its mode. -/
theorem storeTo_storeCost {i : Instr} {m : MemOperand} {rows : List (Mode × Byte)}
    (listed : i.opcode = opcodeFor rows m.mode) (charged : rows.all chargedAsStore = true) (h : i.wf = true)
    (v : Byte) (s : State) :
    storeTo i m v s = .next (((s.past i).store (resolve m s).ea v).withResult (.cycles (storeCost m))) := by
  obtain ⟨op, hop, hrow⟩ := row_of_wf listed charged h
  obtain ⟨hbase, hpage⟩ :
      baseCyclesOf op = m.mode.readCycles + m.mode.addsIndex.toNat ∧ pagex.contains op = false := by
    simpa only [chargedAsStore, Bool.and_eq_true, beq_iff_eq, Bool.not_eq_true'] using hrow
  rw [storeTo_eq, baseCycles_of_opcode hop, pageExtra_of_opcode hop, hbase, hpage, Bool.false_and, Bool.toNat_false,
    Nat.add_zero, storeCost_eq]

end Machine
end Sys2Proof
end

section
/-! SUPPORT. Loads, stores and transfers (41_load_store_transfer.md R121 to R133). -/

namespace Sys2Proof.Machine

/-- `SetNZ` over numbers (10_state.md R27). -/
theorem Flags.setNZ_eq_nz (f : Flags) (v : Byte) : f.setNZ v = f.nz v := by
  obtain ⟨hn, hz⟩ := f.setNZ_tests v
  rw [Flags.nz, ← hn, ← hz]
  rfl

/-- Settles O15: each load is a read of its operand, and every row of its list costs what a read costs. -/
theorem loadsTakeTheOperand : Obligations.LoadsTakeTheOperand := by
  intro o s
  simp only [← Flags.setNZ_eq_nz]
  exact ⟨fun h => withOperand_readCost (i := .lda o) rfl rfl h 0 (fun m t => t.loadA m) s,
    fun h => withOperand_readCost (i := .ldx o) rfl rfl h 0 (fun m t => t.loadX m) s,
    fun h => withOperand_readCost (i := .ldy o) rfl rfl h 0 (fun m t => t.loadY m) s⟩

/-- Settles O16: each store is one write of memory, and every row of its list costs what a store costs. -/
theorem storesWriteOneByte : Obligations.StoresWriteOneByte := by
  intro m s p hp hwf
  have stored : exec p.1 s
      = .next (((s.past p.1).store (resolve m s).ea p.2).withResult (.cycles (storeCost m))) := by
    simp only [List.mem_cons, List.not_mem_nil, or_false] at hp
    obtain rfl | rfl | rfl | rfl := hp
    · exact storeTo_storeCost rfl rfl hwf s.a s
    · exact storeTo_storeCost rfl rfl hwf s.x s
    · exact storeTo_storeCost rfl rfl hwf s.y s
    · exact storeTo_storeCost rfl rfl hwf 0x00 s
  exact ⟨_, stored, rfl, fun a => s.mem.read_write (resolve m s).ea a p.2⟩

/-- Settles O17: with `SetNZ` written over numbers, each transfer computes to the state it is to leave. -/
theorem transfersCopyTheRegister : Obligations.TransfersCopyTheRegister := by
  intro s
  simp only [← Flags.setNZ_eq_nz]
  exact ⟨rfl, rfl, rfl, rfl, rfl, rfl⟩

end Sys2Proof.Machine
end

section
/-! SUPPORT. The adders over numbers (42_arithmetic.md R142 to R146): the binary ones as sums, unsigned and signed, and
the decimal ones on the digits of their operands. -/

namespace Sys2Proof.Machine

theorem and_signBit (b : Byte) : ((b &&& 0x80) != 0) = b.msb := by
  rw [show (0x80 : Byte) = .twoPow 8 7 from rfl, BitVec.and_twoPow, ← BitVec.msb_eq_getLsbD_last b]
  cases b.msb <;> rfl

/-- V, read off the sign bits. -/
theorem addBin_v (a m : Byte) (c : Bool) :
    (addBin a m c).v = true ↔ a.msb = m.msb ∧ (addBin a m c).r.msb ≠ a.msb := by
  simp only [addBin, and_signBit, BitVec.msb_and, BitVec.msb_not, BitVec.msb_xor]
  cases a.msb <;> cases m.msb <;> simp

theorem addBin_r_toNat (a m : Byte) (c : Bool) : (addBin a m c).r.toNat = (a.toNat + m.toNat + c.toNat) % 256 :=
  BitVec.toNat_ofNat ..

/-- Only addends of one sign have a sum that leaves -128 .. 127, and it then shows the other sign. -/
theorem addBin_v_signed (a m : Byte) (c : Bool) :
    (addBin a m c).v = true ↔ ¬(-128 ≤ a.toInt + m.toInt + c.toNat ∧ a.toInt + m.toInt + c.toNat ≤ 127) := by
  have := a.isLt
  have := m.isLt
  have := c.toNat_le
  rw [addBin_v]
  simp only [BitVec.msb_eq_decide, addBin_r_toNat, BitVec.toInt_eq_toNat_cond, ne_eq, decide_eq_decide]
  omega

/-- Settles O18. -/
theorem addBinIsTheNineBitSum : Obligations.AddBinIsTheNineBitSum := fun a m c =>
  ⟨addBin_r_toNat a m c, decide_eq_true_iff, addBin_v a m c, addBin_v_signed a m c⟩

theorem xor_ff_toInt (m : Byte) : (m ^^^ 0xFF).toInt = -m.toInt - 1 := by
  have := m.isLt
  simp only [BitVec.toInt_eq_toNat_cond, xor_ff_toNat]
  omega

/-- No borrow, as the carry of the addition of the complement. -/
theorem subBin_c (a m : Byte) (c : Bool) : (subBin a m c).c = true ↔ m.toNat + 1 ≤ a.toNat + c.toNat := by
  have := m.isLt
  simp only [subBin, addBin, xor_ff_toNat, decide_eq_true_iff]
  omega

/-- Settles O19: the complement is one less than the negative, unsigned modulo 256 and signed. -/
theorem subBinIsTheDifferenceWithBorrow : Obligations.SubBinIsTheDifferenceWithBorrow := by
  intro a m c
  refine ⟨?_, subBin_c a m c, ?_⟩
  · have := m.isLt
    rw [subBin, addBin_r_toNat, xor_ff_toNat]
    omega
  · rw [subBin, addBin_v_signed, xor_ff_toInt]
    omega

/-- `b` holds the decimal digits `t` and `o`. -/
def HasDigits (b : Byte) (t o : Nat) : Prop := t ≤ 9 ∧ o ≤ 9 ∧ b.toNat = 16 * t + o

theorem hasDigits_of_isBcd {b : Byte} (h : isBcd b = true) : ∃ t o, HasDigits b t o := by
  rw [isBcd, Bool.and_eq_true, decide_eq_true_iff, decide_eq_true_iff] at h
  obtain ⟨ht, ho⟩ := h
  exact ⟨_, _, ht, ho, (Nat.div_add_mod ..).symm⟩

namespace HasDigits

variable {b : Byte} {t o : Nat} (h : HasDigits b t o)
include h

theorem nibbles : b.toNat / 16 = t ∧ b.toNat % 16 = o := by
  obtain ⟨ht, ho, hb⟩ := h
  omega

theorem isBcd_eq_true : isBcd b = true := by
  have ⟨ht, ho, _⟩ := h
  rw [isBcd, h.nibbles.1, h.nibbles.2, decide_eq_true ht, decide_eq_true ho]
  rfl

theorem bcdValue_eq : bcdValue b = 10 * t + o := by rw [bcdValue, h.nibbles.1, h.nibbles.2]

theorem lowNibble : (b &&& 0x0F).toNat = o :=
  (BitVec.toNat_and ..).trans ((Nat.and_two_pow_sub_one_eq_mod b.toNat 4).trans h.nibbles.2)

theorem highNibble : (b &&& 0xF0).toNat = 16 * t := by
  have masked : ∀ b : Byte, (b &&& 0xF0).toNat = 16 * (b.toNat / 16) := by decide
  rw [masked, h.nibbles.1]

end HasDigits

/-- The digits of a decimal sum, by whether the ones carry into the tens and whether these carry out. -/
theorem addDec_digits {a m : Byte} {t o t' o' : Nat} (ha : HasDigits a t o) (hm : HasDigits m t' o') (c : Bool) :
    ∃ tens ones, HasDigits (addDec a m c).r tens ones ∧
      (10 * t + o + (10 * t' + o') + c.toNat) % 100 = 10 * tens + ones ∧
      ((addDec a m c).c = true ↔ 100 ≤ 10 * t + o + (10 * t' + o') + c.toNat) := by
  have := c.toNat_le
  simp only [HasDigits, addDec, ha.lowNibble, hm.lowNibble, ha.highNibble, hm.highNibble, BitVec.toNat_ofNat,
    decide_eq_true_iff]
  obtain ⟨_, _, -⟩ := ha
  obtain ⟨_, _, -⟩ := hm
  split <;> split
  · exact ⟨t + t' + 1 - 10, o + o' + c.toNat - 10, by omega⟩
  · exact ⟨t + t' + 1, o + o' + c.toNat - 10, by omega⟩
  · exact ⟨t + t' - 10, o + o' + c.toNat, by omega⟩
  · exact ⟨t + t', o + o' + c.toNat, by omega⟩

/-- Settles O20. -/
theorem addDecAddsDecimalDigits : Obligations.AddDecAddsDecimalDigits := by
  intro a m c ha hm
  obtain ⟨_, _, ha⟩ := hasDigits_of_isBcd ha
  obtain ⟨_, _, hm⟩ := hasDigits_of_isBcd hm
  obtain ⟨_, _, hr, hsum, hc⟩ := addDec_digits ha hm c
  rw [ha.bcdValue_eq, hm.bcdValue_eq, hr.bcdValue_eq]
  exact ⟨hr.isBcd_eq_true, hsum.symm, hc⟩

/-- The digits of a decimal difference, by whether the ones borrow from the tens and whether these borrow. -/
theorem subDec_digits {a m : Byte} {t o t' o' : Nat} (ha : HasDigits a t o) (hm : HasDigits m t' o') (c : Bool) :
    ∃ tens ones, HasDigits (subDec a m c).r tens ones ∧
      ((10 * t + o : Int) - (10 * t' + o') - (1 - c.toNat)) % 100 = 10 * tens + ones := by
  have := c.toNat_le
  simp only [HasDigits, subDec, ha.lowNibble, hm.lowNibble, BitVec.toNat_ofInt]
  obtain ⟨_, _, ha⟩ := ha
  obtain ⟨_, _, hm⟩ := hm
  rw [ha, hm]
  split <;> split
  · exact ⟨t + 10 - 1 - t', o + 10 + c.toNat - 1 - o', by omega⟩
  · exact ⟨t - 1 - t', o + 10 + c.toNat - 1 - o', by omega⟩
  · exact ⟨t + 10 - t', o + c.toNat - 1 - o', by omega⟩
  · exact ⟨t - t', o + c.toNat - 1 - o', by omega⟩

/-- Settles O21: digits keep the order of bytes, so that no borrow means the same for the decimal values. -/
theorem subDecSubtractsDecimalDigits : Obligations.SubDecSubtractsDecimalDigits := by
  intro a m c
  refine ⟨⟨rfl, rfl⟩, fun ha hm => ?_⟩
  obtain ⟨_, _, ha⟩ := hasDigits_of_isBcd ha
  obtain ⟨_, _, hm⟩ := hasDigits_of_isBcd hm
  obtain ⟨_, _, hr, hdiff⟩ := subDec_digits ha hm c
  have borrow : (subDec a m c).c = true ↔ m.toNat + 1 ≤ a.toNat + c.toNat := subBin_c a m c
  rw [borrow, ha.bcdValue_eq, hm.bcdValue_eq, hr.bcdValue_eq]
  refine ⟨hr.isBcd_eq_true, by exact_mod_cast hdiff.symm, ?_⟩
  · obtain ⟨_, _, ha⟩ := ha
    obtain ⟨_, _, hm⟩ := hm
    have := c.toNat_le
    omega

end Sys2Proof.Machine
end

section
/-! SUPPORT. The instructions of 42_arithmetic.md, R141 to R155. -/

namespace Sys2Proof.Machine

theorem plusIf_decimal (n : Nat) (d : Bool) : plusIf n d = n + decimalExtra d := by cases d <;> rfl

/-- What ADC and SBC do with their operand, each with its own sum. -/
def sumIntoA (sum : Flags → Byte → Byte → Sum) (m : Byte) (t : State) : State :=
  (t.withA (sum t.flags t.a m).r).withFlags (t.flags.afterSum (sum t.flags t.a m))

/-- Settles O22: both read their operand, and every row of their lists costs what a read costs, but for the decimal
cycle. -/
theorem adcSbcStoreTheSelectedSum : Obligations.AdcSbcStoreTheSelectedSum := by
  intro o s p hp hwf
  rw [plusIf_decimal, ← Flags.setNZ_eq_nz]
  simp only [List.mem_cons, List.not_mem_nil, or_false] at hp
  obtain rfl | rfl := hp
  · exact withOperand_readCost (i := .adc o) rfl rfl hwf (decimalExtra s.flags.d) (sumIntoA adcSum) s
  · exact withOperand_readCost (i := .sbc o) rfl rfl hwf (decimalExtra s.flags.d) (sumIntoA sbcSum) s

/-- A compare orders unsigned, and tests the difference. -/
theorem Flags.compare_eq (f : Flags) (reg m : Byte) :
    f.compare reg m = { f with
      c := decide (m.toNat ≤ reg.toNat), z := decide (reg = m), n := (reg - m).msb } := by
  have carry : (256 ≤ reg.toNat + (m ^^^ 0xFF).toNat + 1) = (m.toNat ≤ reg.toNat) := by
    have := m.isLt
    rw [xor_ff_toNat, eq_iff_iff]
    omega
  have zero : (reg - m == 0) = decide (reg = m) := by
    rw [Bool.eq_iff_iff, beq_iff_eq, decide_eq_true_iff]
    exact sub_eq_zero
  simp only [Flags.compare, compare_byte, Flags.setNZ, carry, zero, BitVec.msb_eq_getLsbD_last]

/-- Settles O23: each compare reads its operand and sets the three flags of the order. -/
theorem comparesOrderUnsigned : Obligations.ComparesOrderUnsigned := by
  intro o s p hp hwf
  have compared : exec p.1 s
      = .next (((s.past p.1).withFlags (s.flags.compare p.2 (readSrc o s))).withResult (.cycles (readCost o s))) := by
    simp only [List.mem_cons, List.not_mem_nil, or_false] at hp
    obtain rfl | rfl | rfl := hp
    · exact withOperand_readCost (i := .cmp o) rfl rfl hwf 0 (fun v t => t.withFlags (t.flags.compare t.a v)) s
    · exact withOperand_readCost (i := .cpx o) rfl rfl hwf 0 (fun v t => t.withFlags (t.flags.compare t.x v)) s
    · exact withOperand_readCost (i := .cpy o) rfl rfl hwf 0 (fun v t => t.withFlags (t.flags.compare t.y v)) s
  rw [compared, Flags.compare_eq]
  rfl

/-- The cycles of INC and DEC through each of their modes (70_reset_and_hazards.md R305). -/
def incCycles : Mode → Nat
  | .acc => 2
  | .zp => 5
  | .abx => 7
  | _ => 6

theorem incCost_eq (o : Rmw) : incCost o = incCycles o.mode := by
  cases o with
  | acc => rfl
  | mem m => cases m <;> rfl

/-- An opcode byte that costs what INC and DEC cost through its mode, page crossed or not. -/
def chargedAsInc (row : Mode × Byte) : Bool := baseCyclesOf row.2 == incCycles row.1 && !pagex.contains row.2

/-- What a well-formed INC or DEC of memory answers: the byte and the flags made of the byte that stood there, PC past
the instruction, and the cycles of its mode. -/
theorem modify_incCost {i : Instr} {m : MemOperand} {rows : List (Mode × Byte)}
    (listed : i.opcode = opcodeFor rows m.mode) (charged : rows.all chargedAsInc = true) (h : i.wf = true)
    (f : Byte → Flags → Byte × Flags) (s : State) :
    modify i (.mem m) f s
      = .next ((((s.past i).store (resolve m s).ea (f (s.mem.read (resolve m s).ea) s.flags).1).withFlags
          (f (s.mem.read (resolve m s).ea) s.flags).2).withResult (.cycles (incCost (.mem m)))) := by
  obtain ⟨op, hop, hrow⟩ := row_of_wf listed charged h
  obtain ⟨hbase, hpage⟩ : baseCyclesOf op = incCycles m.mode ∧ pagex.contains op = false := by
    simpa only [chargedAsInc, Bool.and_eq_true, beq_iff_eq, Bool.not_eq_true'] using hrow
  rw [modify_mem_eq, baseCycles_of_opcode hop, pageExtra_of_opcode hop, hbase, hpage, incCost_eq, Rmw.mode]
  rfl

/-- Settles O24: in memory each is one write, and every row of its list costs what its mode costs. -/
theorem incDecStepTheirOperand : Obligations.IncDecStepTheirOperand := by
  intro s
  simp only [← Flags.setNZ_eq_nz]
  refine ⟨fun p hp => ?_, fun m p hp hwf => ?_⟩
  · simp only [List.mem_cons, List.not_mem_nil, or_false] at hp
    obtain rfl | rfl := hp
    · rfl
    · rfl
  · have stepped : exec p.1 s
        = .next ((((s.past p.1).store (resolve m s).ea p.2).withFlags (s.flags.setNZ p.2)).withResult
            (.cycles (incCost (.mem m)))) := by
      simp only [List.mem_cons, List.not_mem_nil, or_false] at hp
      obtain rfl | rfl := hp
      · exact modify_incCost rfl rfl hwf incByte s
      · exact modify_incCost rfl rfl hwf decByte s
    exact ⟨_, stepped, rfl, fun a => s.mem.read_write (resolve m s).ea a p.2⟩

/-- Settles O25: with `SetNZ` written over numbers, each computes to the state it is to leave. -/
theorem indexRegistersStep : Obligations.IndexRegistersStep := by
  intro s
  simp only [← Flags.setNZ_eq_nz]
  exact ⟨rfl, rfl, rfl, rfl⟩

end Sys2Proof.Machine
end

section
/-! SUPPORT. The instructions of 43_logic_shift_bit.md that act on A and the flags: logic and BIT (R171 to R174). -/

namespace Sys2Proof.Machine

/-- Settles O26: each reads its operand, and every row of its list costs what a read costs. -/
theorem logicActsOnTheAccumulator : Obligations.LogicActsOnTheAccumulator := by
  intro o s p hp hwf
  rw [← Flags.setNZ_eq_nz]
  simp only [List.mem_cons, List.not_mem_nil, or_false] at hp
  obtain rfl | rfl | rfl := hp
  · exact withOperand_readCost (i := .and o) rfl rfl hwf 0 (fun m t => t.loadA (t.a &&& m)) s
  · exact withOperand_readCost (i := .ora o) rfl rfl hwf 0 (fun m t => t.loadA (t.a ||| m)) s
  · exact withOperand_readCost (i := .eor o) rfl rfl hwf 0 (fun m t => t.loadA (t.a ^^^ m)) s

theorem getLsbD_seven (m : Byte) : m.getLsbD 7 = decide (128 ≤ m.toNat) :=
  (BitVec.msb_eq_getLsbD_last m).symm.trans (BitVec.msb_eq_decide m)

theorem getLsbD_six (m : Byte) : m.getLsbD 6 = decide (64 ≤ m.toNat % 128) := by
  rw [BitVec.getLsbD, Nat.testBit_eq_decide_div_mod_eq, decide_eq_decide]
  omega

/-- The flags of BIT on a memory operand, over numbers. -/
theorem Flags.bitMemory_eq (f : Flags) (a m : Byte) :
    f.bitMemory a m = { f with
      z := decide (a &&& m = 0), n := decide (128 ≤ m.toNat), v := decide (64 ≤ m.toNat % 128) } := by
  rw [Flags.bitMemory, getLsbD_seven, getLsbD_six]
  rfl

/-- Settles O27: the immediate form computes to its next state, and in memory every row of the list costs what a read
costs. -/
theorem bitTestsAndCopies : Obligations.BitTestsAndCopies := by
  refine fun s => ⟨fun v => rfl, fun m hwf => ?_⟩
  rw [← Flags.bitMemory_eq]
  exact withOperand_readCost (i := .bit (.mem m)) (o := .mem m) rfl rfl hwf 0
    (fun v t => t.withFlags (t.flags.bitMemory t.a v)) s

end Sys2Proof.Machine
end

section
/-! SUPPORT. Shifts and rotates (43_logic_shift_bit.md R175 to R178): their bytes as numbers and as nine bits in a ring,
and the cycles of a shift. -/

namespace Sys2Proof.Machine

theorem getLsbD_zero_eq_odd (m : Byte) : m.getLsbD 0 = decide (m.toNat % 2 = 1) := Nat.testBit_zero _

/-- ROL makes the byte that the old C is shifted into from below. -/
theorem rolByte_fst (m : Byte) (f : Flags) : (rolByte m f).1 = m.shiftConcat f.c := by
  apply BitVec.eq_of_getLsbD_eq
  intro i hi
  cases i with
  | zero => simp [rolByte]
  | succ i => simp [rolByte, hi]

/-- ROR makes the upper eight of nine bits, the old C the highest of them. -/
theorem rorByte_fst (m : Byte) (f : Flags) : (rorByte m f).1 = (BitVec.cons f.c m).extractLsb' 1 8 := by
  apply BitVec.eq_of_getLsbD_eq
  intro i hi
  obtain hlow | rfl : i < 7 ∨ i = 7 := by omega
  · have hne : 1 + i ≠ 8 := by omega
    simp [rorByte, BitVec.getLsbD_cons, hi, hlow, hne]
  · simp [rorByte, BitVec.getElem_cons]

theorem rolByte_c (m : Byte) (f : Flags) : (rolByte m f).2.c = m.getLsbD 7 := rfl

theorem rorByte_c (m : Byte) (f : Flags) : (rorByte m f).2.c = m.getLsbD 0 := rfl

theorem rolByte_toNat (m : Byte) (f : Flags) : (rolByte m f).1.toNat = (2 * m.toNat + f.c.toNat) % 256 := by
  rw [rolByte_fst, BitVec.toNat_shiftConcat, Nat.shiftLeft_eq]
  omega

theorem rorByte_toNat (m : Byte) (f : Flags) : (rorByte m f).1.toNat = m.toNat / 2 + 128 * f.c.toNat := by
  have := m.isLt
  have := f.c.toNat_le
  rw [rorByte_fst, BitVec.extractLsb'_toNat, BitVec.toNat_cons', Nat.shiftLeft_eq, Nat.shiftRight_eq_div_pow]
  omega

/-- Settles O28. -/
theorem shiftsAndRotatesAsArithmetic : Obligations.ShiftsAndRotatesAsArithmetic := by
  intro m f
  simp only [← Flags.setNZ_eq_nz, ← getLsbD_seven, ← getLsbD_zero_eq_odd]
  refine ⟨⟨?_, rfl⟩, ⟨?_, rfl⟩, ⟨rolByte_toNat m f, rfl⟩, ⟨rorByte_toNat m f, rfl⟩⟩
  · rw [aslByte, BitVec.toNat_shiftLeft, Nat.shiftLeft_eq]
    omega
  · exact BitVec.toNat_ushiftRight ..

/-- The ring that the rotates turn: bits 0 to 7 of the byte, and C as bit 8. -/
def ringBit (q : Byte × Flags) (i : Fin 9) : Bool := (BitVec.cons q.2.c q.1).getLsbD i

theorem ringBit_carry (q : Byte × Flags) : ringBit q 8 = q.2.c := by
  simp [ringBit, BitVec.getElem_cons]

theorem ringBit_castSucc (q : Byte × Flags) (j : Fin 8) : ringBit q j.castSucc = q.1.getLsbD j := by
  simp [ringBit, BitVec.getLsbD_cons, j.isLt.ne]

theorem eq_of_ringBit_eq {p q : Byte × Flags} (h : ringBit p = ringBit q) : p.1 = q.1 ∧ p.2.c = q.2.c := by
  constructor
  · apply BitVec.eq_of_getLsbD_eq
    intro i hi
    simpa only [ringBit_castSucc] using congrFun h (Fin.castSucc ⟨i, hi⟩)
  · simpa only [ringBit_carry] using congrFun h 8

/-- A turn of the ring by one place, upwards. -/
def ringUp (r : Fin 9 → Bool) (i : Fin 9) : Bool := r (i - 1)

theorem ringUp_nine (r : Fin 9 → Bool) : ringUp^[9] r = r := by
  funext i
  exact congrArg r (by decide +revert : i - 1 - 1 - 1 - 1 - 1 - 1 - 1 - 1 - 1 = i)

theorem ringBit_rolByte (m : Byte) (f : Flags) : ringBit (rolByte m f) = ringUp (ringBit (m, f)) := by
  funext i
  fin_cases i <;> simp [ringBit, ringUp, BitVec.getElem_cons, rolByte_fst, rolByte_c]

theorem ringBit_rorByte (m : Byte) (f : Flags) (i : Fin 9) : ringBit (rorByte m f) i = ringBit (m, f) (i + 1) := by
  fin_cases i <;> simp [ringBit, BitVec.getElem_cons, rorByte_fst, rorByte_c]

/-- Settles O29: ROL turns the ring of nine up by one place, and ROR down. -/
theorem rotatesAreNineBitRotations : Obligations.RotatesAreNineBitRotations := by
  intro m f
  constructor
  · have turned : Function.Semiconj ringBit (fun q : Byte × Flags => rolByte q.1 q.2) ringUp :=
      fun q => ringBit_rolByte q.1 q.2
    exact eq_of_ringBit_eq ((turned.iterate_right 9 (m, f)).trans (ringUp_nine _))
  · refine eq_of_ringBit_eq (q := (m, f)) (funext fun i => ?_)
    rw [ringBit_rorByte, Prod.mk.eta, ringBit_rolByte, ringUp, add_sub_cancel_right]

/-- The cycles of a shift or rotate through each of its modes when no page is crossed (70_reset_and_hazards.md R305). -/
def shiftCycles : Mode → Nat
  | .acc => 2
  | .zp => 5
  | _ => 6

theorem shiftCost_eq (m : MemOperand) (s : State) :
    shiftCost (.mem m) s = shiftCycles m.mode + (m.mode == .abx && (resolve m s).crossed).toNat := by
  rw [pageCrossIsCarryOutOfLowByte m s]
  cases m with
  | abx _ => exact plusIf_eq _ _
  | abs _ | aby _ | zp _ | zpx _ | zpy _ | izx _ | izp _ | izy _ => rfl

/-- An opcode byte that costs what a shift costs through its mode, and is in `PAGEX` when that is absolute,X. -/
def chargedAsShift (row : Mode × Byte) : Bool :=
  baseCyclesOf row.2 == shiftCycles row.1 && pagex.contains row.2 == (row.1 == .abx)

/-- What a well-formed shift or rotate of memory answers: the byte and the flags made of the byte that stood there, PC
past the instruction, and the cycles of its mode. -/
theorem modify_shiftCost {i : Instr} {m : MemOperand} {rows : List (Mode × Byte)}
    (listed : i.opcode = opcodeFor rows m.mode) (charged : rows.all chargedAsShift = true) (h : i.wf = true)
    (f : Byte → Flags → Byte × Flags) (s : State) :
    modify i (.mem m) f s
      = .next ((((s.past i).store (resolve m s).ea (f (s.mem.read (resolve m s).ea) s.flags).1).withFlags
          (f (s.mem.read (resolve m s).ea) s.flags).2).withResult (.cycles (shiftCost (.mem m) s))) := by
  obtain ⟨op, hop, hrow⟩ := row_of_wf listed charged h
  obtain ⟨hbase, hpage⟩ : baseCyclesOf op = shiftCycles m.mode ∧ pagex.contains op = (m.mode == .abx) := by
    simpa only [chargedAsShift, Bool.and_eq_true, beq_iff_eq] using hrow
  rw [modify_mem_eq, baseCycles_of_opcode hop, pageExtra_of_opcode hop, hbase, hpage, shiftCost_eq]

/-- Settles O30: the accumulator forms compute; in memory each is one write, and every row of its list costs what its
mode costs. -/
theorem shiftsWriteBackInPlace : Obligations.ShiftsWriteBackInPlace := by
  intro s
  refine ⟨fun p hp => ?_, fun m => ?_⟩
  · simp only [List.mem_cons, List.not_mem_nil, or_false] at hp
    obtain rfl | rfl | rfl | rfl := hp <;> rfl
  · intro v p hp hwf
    have shifted : exec p.1 s
        = .next ((((s.past p.1).store (resolve m s).ea p.2.1).withFlags p.2.2).withResult
            (.cycles (shiftCost (.mem m) s))) := by
      simp only [List.mem_cons, List.not_mem_nil, or_false] at hp
      obtain rfl | rfl | rfl | rfl := hp
      · exact modify_shiftCost rfl rfl hwf aslByte s
      · exact modify_shiftCost rfl rfl hwf lsrByte s
      · exact modify_shiftCost rfl rfl hwf rolByte s
      · exact modify_shiftCost rfl rfl hwf rorByte s
    exact ⟨_, shifted, rfl, fun a => s.mem.read_write (resolve m s).ea a p.2.1⟩

end Sys2Proof.Machine
end

section
/-! SUPPORT. Bits of a byte in memory changed in place (43_logic_shift_bit.md R179 to R182). -/

namespace Sys2Proof.Machine

/-- Settles O31: each is one write of memory, and every row of its list costs what INC costs. -/
theorem trbTsbTestThenChange : Obligations.TrbTsbTestThenChange := by
  intro m s p hp hwf
  have changed : exec p.1 s
      = .next ((((s.past p.1).store (resolve m s).ea p.2).withFlags
          (s.flags.testMask s.a (s.mem.read (resolve m s).ea))).withResult (.cycles (incCost (.mem m)))) := by
    simp only [List.mem_cons, List.not_mem_nil, or_false] at hp
    obtain rfl | rfl := hp
    · rw [← show s.a ^^^ 0xFF = ~~~s.a from BitVec.xor_allOnes]
      exact modify_incCost rfl rfl hwf (trbByte s.a) s
    · exact modify_incCost rfl rfl hwf (tsbByte s.a) s
  exact ⟨_, changed, rfl, fun a => s.mem.read_write (resolve m s).ea a p.2⟩

/-- RMBb and SMBb: one write of the zero-page byte, in five cycles. -/
theorem exec_rmb (b : Fin 8) (z : Byte) (s : State) :
    exec (rmb b z) s = .next { s with
      mem := s.mem.write (zext16 z) (rmbByte b (s.mem.read (zext16 z)) s.flags).1,
      pc := s.pc + 2, result := .cycles 5 } := by
  fin_cases b <;> rfl

theorem exec_smb (b : Fin 8) (z : Byte) (s : State) :
    exec (smb b z) s = .next { s with
      mem := s.mem.write (zext16 z) (smbByte b (s.mem.read (zext16 z)) s.flags).1,
      pc := s.pc + 2, result := .cycles 5 } := by
  fin_cases b <;> rfl

theorem getLsbD_bitMask (b j : Fin 8) : (bitMask b).getLsbD j = decide (j = b) := by
  decide +revert

theorem getLsbD_rmbByte (b j : Fin 8) (m : Byte) (f : Flags) :
    (rmbByte b m f).1.getLsbD j = if j = b then false else m.getLsbD j := by
  rw [rmbByte, show bitMask b ^^^ 0xFF = ~~~bitMask b from BitVec.xor_allOnes, BitVec.getLsbD_and, BitVec.getLsbD_not,
    getLsbD_bitMask]
  by_cases hj : j = b <;> simp [hj]

theorem getLsbD_smbByte (b j : Fin 8) (m : Byte) (f : Flags) :
    (smbByte b m f).1.getLsbD j = if j = b then true else m.getLsbD j := by
  rw [smbByte, BitVec.getLsbD_or, getLsbD_bitMask]
  by_cases hj : j = b <;> simp [hj]

/-- Settles O32. -/
theorem rmbSmbChangeOneBit : Obligations.RmbSmbChangeOneBit := by
  intro b z s p hp
  simp only [List.mem_cons, List.not_mem_nil, or_false] at hp
  obtain rfl | rfl := hp
  · refine ⟨_, exec_rmb b z s, rfl, fun j => ?_, fun a ha => s.mem.read_write_other _ ha⟩
    rw [Memory.read_write_self, getLsbD_rmbByte]
  · refine ⟨_, exec_smb b z s, rfl, fun j => ?_, fun a ha => s.mem.read_write_other _ ha⟩
    rw [Memory.read_write_self, getLsbD_smbByte]

end Sys2Proof.Machine
end

section
/-! SUPPORT. Branches and jumps (44_branch_jump.md R201 to R213, R217): the moved PC as a number. -/

namespace Sys2Proof.Machine

/-- A sign-extended offset adds its signed value, modulo 2^16. -/
theorem add_sext16_toNat (w : Word) (r : Byte) :
    ((w + sext16 r).toNat : Int) = ((w.toNat : Int) + r.toInt) % 65536 := by
  have signed : (sext16 r).toInt = r.toInt := BitVec.toInt_signExtend_of_le (by decide)
  rw [BitVec.toInt_eq_toNat_cond] at signed
  rw [BitVec.toNat_add]
  omega

theorem State.past_pc_toNat (s : State) (i : Instr) : (s.past i).pc.toNat = (s.pc.toNat + i.length) % 65536 := by
  rw [State.past_eq, BitVec.toNat_add, BitVec.toNat_ofNat, Nat.add_mod_mod]

/-- The PC of `branchIf_eq` as a number: past the instruction, and by the signed offset when the branch is taken. -/
theorem branchIf_pc_toNat (i : Instr) (cond : Bool) (r : Byte) (s : State) :
    (((s.past i).pc + (if cond then sext16 r else 0)).toNat : Int)
      = ((s.pc.toNat : Int) + i.length + (if cond then r.toInt else 0)) % 65536 := by
  have next := s.past_pc_toNat i
  cases cond
  · simp [next]
  · simp only [if_true, add_sext16_toNat, next]
    omega

/-- Where an instruction that is a branch goes, as a number, and what it costs (R201). -/
theorem exec_branch_moves {i : Instr} {cond : Bool} {r : Byte} {s : State} {len base : Nat}
    (h : exec i s = branchIf i cond r s) (hlen : i.length = len) (hbase : baseCycles i = base) :
    ∃ t, exec i s = .next t ∧ t = { s with pc := t.pc, result := .cycles (plusIf base cond) } ∧
      (t.pc.toNat : Int) = ((s.pc.toNat : Int) + len + (if cond then r.toInt else 0)) % 65536 := by
  subst hlen hbase
  refine ⟨_, h.trans (branchIf_eq i cond r s), ?_, branchIf_pc_toNat i cond r s⟩
  cases cond <;> rfl

/-- Settles O33: each is `Branch` on its own condition, two bytes long at two cycles. -/
theorem branchesMoveRelative : Obligations.BranchesMoveRelative := by
  intro r s p hp
  have branch : exec p.1 s = branchIf p.1 p.2 r s ∧ p.1.length = 2 ∧ baseCycles p.1 = 2 := by
    simp only [branches, List.mem_cons, List.not_mem_nil, or_false] at hp
    obtain rfl | rfl | rfl | rfl | rfl | rfl | rfl | rfl | rfl := hp <;> exact ⟨rfl, rfl, rfl⟩
  obtain ⟨run, len, base⟩ := branch
  exact exec_branch_moves run len base

/-- BBRb and BBSb, with the bit as a parameter: `Branch` on that bit of the byte (R211, R212). -/
theorem exec_bbr (b : Fin 8) (z r : Byte) (s : State) :
    exec (bbr b z r) s = branchIf (bbr b z r) (!(s.mem.read (zext16 z)).getLsbD b) r s := by
  rw [← beq_false]
  fin_cases b <;> rfl

theorem exec_bbs (b : Fin 8) (z r : Byte) (s : State) :
    exec (bbs b z r) s = branchIf (bbs b z r) ((s.mem.read (zext16 z)).getLsbD b) r s := by
  rw [← beq_true ((s.mem.read (zext16 z)).getLsbD b)]
  fin_cases b <;> rfl

/-- Settles O34: each is `Branch` on the tested bit, three bytes long at five cycles. -/
theorem bitBranchesTestOneBit : Obligations.BitBranchesTestOneBit := by
  intro b z r s p hp
  simp only [List.mem_cons, List.not_mem_nil, or_false] at hp
  obtain rfl | rfl := hp
  · exact exec_branch_moves (exec_bbr b z r s) (by fin_cases b <;> rfl) (by fin_cases b <;> rfl)
  · exact exec_branch_moves (exec_bbs b z r s) (by fin_cases b <;> rfl) (by fin_cases b <;> rfl)

/-- The word at an address: its second byte lies at the next address modulo 2^16 (20_memory.md R55). -/
theorem State.read16_toNat (s : State) (a : Word) :
    (s.mem.read16 a).toNat = s.byteNat a.toNat + 256 * s.byteNat ((a.toNat + 1) % 65536) := by
  rw [Memory.read16, wordOf_toNat, Nat.add_comm, Nat.mul_comm, Memory.read, Memory.read, BitVec.toNat_add]
  rfl

theorem exec_jmp (g : Target) (s : State) :
    exec (.jmp g) s = .next { s with pc := resolveTarget g s, result := .cycles (baseCycles (.jmp g)) } := rfl

/-- Settles O35: the operand word is the target itself; an indirect target is the word read at the pointer. -/
theorem jumpsTakeTheEffectiveAddress : Obligations.JumpsTakeTheEffectiveAddress := by
  refine fun w s => ⟨exec_jmp (.abs w) s, ⟨_, exec_jmp (.ind w) s, rfl, s.read16_toNat w⟩,
    _, exec_jmp (.iax w) s, rfl, ?_⟩
  have pointer : (w + zext16 s.x).toNat = (w.toNat + s.x.toNat) % 65536 := indexedHandle_ea_toNat w s.x
  calc (s.mem.read16 (w + zext16 s.x)).toNat
      = s.byteNat ((w.toNat + s.x.toNat) % 65536)
          + 256 * s.byteNat (((w.toNat + s.x.toNat) % 65536 + 1) % 65536) := by rw [s.read16_toNat, pointer]
    _ = _ := by rw [Nat.mod_add_mod]

end Sys2Proof.Machine
end

section
/-! SUPPORT. Call and return (44_branch_jump.md R214 to R216): the two bytes of a return address on the stack. -/

namespace Sys2Proof.Machine

/-- JSR pushes the address of its third byte and jumps (R214; log entry 20). -/
theorem exec_jsr (w : Word) (s : State) :
    exec (.jsr w) s = .next { s.pushWord (s.pc + 2) with pc := w, result := .cycles 6 } := by
  have third : s.pc + 3 - 1 = s.pc + 2 := add_sub_assoc s.pc 3 1
  calc exec (.jsr w) s
      = .next { s.pushWord (s.pc + 3 - 1) with pc := w, result := .cycles 6 } := rfl
    _ = _ := by rw [third]

/-- RTS pulls two bytes and continues one past their word (R215). -/
theorem exec_rts (s : State) :
    exec .rts s = .next { s with sp := s.sp + 1 + 1, pc := s.topWord + 1, result := .cycles 6 } := rfl

/-- Settles O36: the last of the two writes is the one at the lower SP. -/
theorem jsrPushesTheReturnAddress : Obligations.JsrPushesTheReturnAddress := by
  intro w s
  refine ⟨_, exec_jsr w s, ?_, fun a => ?_⟩
  · rw [State.pushWord_eq, sub_sub]
    rfl
  · simp only [State.pushWord_eq, Memory.read_write]

/-- Settles O37: the pulled word is the bytes at the next two SPs, the lower one first. -/
theorem rtsPullsAndAddsOne : Obligations.RtsPullsAndAddsOne := by
  intro s
  have two : s.sp + 1 + 1 = s.sp + 2 := add_assoc s.sp 1 1
  refine ⟨_, exec_rts s, by rw [two], ?_⟩
  calc (s.topWord + 1).toNat
      = ((wordOf (s.mem.read (stackAddress (s.sp + 1))) (s.mem.read (stackAddress (s.sp + 1 + 1)))).toNat + 1)
          % 65536 := BitVec.toNat_add ..
    _ = _ := by rw [wordOf_toNat, two, Nat.add_comm (_ * 256), Nat.mul_comm]

theorem stackAddress_inj {p q : Byte} : stackAddress p = stackAddress q ↔ p = q := by
  rw [eq_stackAddress_iff, stackAddress_toNat, Nat.add_left_cancel_iff, BitVec.toNat_inj]

/-- The word pulled after a word was pushed is that word, and SP is back: the second push leaves the first one's byte,
wherever SP wraps. -/
theorem State.topWord_pushWord (s : State) (w : Word) :
    (s.pushWord w).topWord = w ∧ (s.pushWord w).sp + 1 + 1 = s.sp := by
  have back : s.sp - 1 - 1 + 1 = s.sp - 1 := sub_add_cancel ..
  have apart : stackAddress s.sp ≠ stackAddress (s.sp - 1) := by
    rw [ne_eq, stackAddress_inj]
    bv_omega
  have low : (s.pushWord w).top = loByte w := ((s.push (hiByte w)).pop_push (loByte w)).1
  have high : (s.pushWord w).pop.top = hiByte w := by
    simp only [State.top, State.pop_eq, State.pushWord_eq, back, sub_add_cancel]
    rw [Memory.read_write_other _ _ apart, Memory.read_write_self]
  refine ⟨?_, by simp only [State.pushWord_eq, back, sub_add_cancel]⟩
  rw [State.topWord, low, high, wordOf_bytes]

/-- Settles O38: what RTS pulls is what JSR pushed, RTS stores nothing, and JSR stores only where it pushes. -/
theorem rtsReturnsAfterJsr : Obligations.RtsReturnsAfterJsr := by
  intro w s
  obtain ⟨pulled, sp⟩ := s.topWord_pushWord (s.pc + 2)
  have after : s.pc + 2 + 1 = s.pc + 3 := add_assoc s.pc 2 1
  refine ⟨_, _, exec_jsr w s, exec_rts _, ?_, fun a ha => memoryChangesOnlyWhereStored _ _ _ (exec_jsr w s) a ha⟩
  calc { s with
        sp := (s.pushWord (s.pc + 2)).sp + 1 + 1
        pc := (s.pushWord (s.pc + 2)).topWord + 1
        result := .cycles 6 }
      = { s with pc := s.pc + 3, result := .cycles 6 } := by rw [pulled, sp, after]

end Sys2Proof.Machine
end

section
/-! SUPPORT. The stack and flag instructions, WAI and STP (45_stack_flag_system.md R231 to R246, R251, R252). -/

namespace Sys2Proof.Machine

/-- Each push instruction is one push, of the byte it names (R231 to R234). -/
theorem exec_of_mem_pushes {s : State} {p : Instr × Byte}
    (hp : p ∈ [(.pha, s.a), (.phx, s.x), (.phy, s.y), (.php, s.flags.toByte)]) :
    exec p.1 s = .next { s.push p.2 with pc := s.pc + 1, result := .cycles 3 } := by
  simp only [List.mem_cons, List.not_mem_nil, or_false] at hp
  obtain rfl | rfl | rfl | rfl := hp
  · rfl
  · rfl
  · rfl
  · rfl

/-- Settles O39: a push is one write of memory, at the stack address. -/
theorem pushesStoreOnTheStack : Obligations.PushesStoreOnTheStack := by
  intro s p hp
  exact ⟨_, exec_of_mem_pushes hp, rfl, fun a => s.mem.read_write (stackAddress s.sp) a p.2⟩

/-- PLA takes the byte at the top of the stack and tests it (R235). -/
theorem exec_pla (s : State) :
    exec .pla s = .next { s with
      a := s.top, flags := s.flags.setNZ s.top, sp := s.sp + 1, pc := s.pc + 1, result := .cycles 4 } := rfl

/-- PLP loads the flags from the byte at the top of the stack (R236). -/
theorem exec_plp (s : State) :
    exec .plp s = .next { s with
      flags := .ofByte s.top, sp := s.sp + 1, pc := s.pc + 1, result := .cycles 4 } := rfl

/-- Settles O40: with `SetNZ` written over numbers, each pull computes to the state it is to leave; PLX and PLY differ
from PLA in the register alone. -/
theorem pullsLoadFromTheStack : Obligations.PullsLoadFromTheStack := by
  intro s
  simp only [← Flags.setNZ_eq_nz]
  exact ⟨exec_pla s, rfl, rfl, exec_plp s⟩

/-- Settles O41: the byte pulled is the byte pushed, and the status byte gives back the flags it was made of. -/
theorem pullsRestoreWhatWasPushed : Obligations.PullsRestoreWhatWasPushed := by
  intro s v f
  obtain ⟨pulledA, spA⟩ := s.pop_push s.a
  obtain ⟨pulledP, spP⟩ := s.pop_push s.flags.toByte
  refine ⟨⟨_, _, exec_of_mem_pushes (p := (.pha, s.a)) (by simp), exec_pla _, pulledA, spA⟩,
    _, _, exec_of_mem_pushes (p := (.php, s.flags.toByte)) (by simp), exec_plp _, ?_, spP⟩
  calc Flags.ofByte (s.push s.flags.toByte).top
      = Flags.ofByte s.flags.toByte := by rw [pulledP]
    _ = s.flags := s.flags.ofByte_toByte

/-- An instruction with no operand byte whose effect is on the flags alone. -/
theorem implied_withFlags_eq (i : Instr) (g : Flags → Flags) (s : State) :
    implied i (fun t => t.withFlags (g t.flags)) s
      = .next { s with
          flags := g s.flags, pc := s.pc + BitVec.ofNat 16 i.length, result := .cycles (baseCycles i) } := rfl

/-- Settles O43: each changes the flags by one function, NOP by the identity, and takes one byte and two cycles. -/
theorem flagInstructionsWriteOneFlag : Obligations.FlagInstructionsWriteOneFlag := by
  intro s p hp
  simp only [List.mem_cons, List.not_mem_nil, or_false] at hp
  obtain rfl | rfl | rfl | rfl | rfl | rfl | rfl | rfl := hp
  · exact implied_withFlags_eq .clc (fun f => { f with c := false }) s
  · exact implied_withFlags_eq .cld (fun f => { f with d := false }) s
  · exact implied_withFlags_eq .cli (fun f => { f with i := false }) s
  · exact implied_withFlags_eq .clv (fun f => { f with v := false }) s
  · exact implied_withFlags_eq .sec (fun f => { f with c := true }) s
  · exact implied_withFlags_eq .sed (fun f => { f with d := true }) s
  · exact implied_withFlags_eq .sei (fun f => { f with i := true }) s
  · exact implied_withFlags_eq .nop id s

theorem haltWith_eq (k : HaltKind) (t : State) :
    haltWith k t = .next { t with halt := k.runState, result := .halted k } := rfl

/-- Settles O47: each is `halt(k)` on the state whose PC is past the opcode. -/
theorem waiStpHalt : Obligations.WaiStpHalt := fun s =>
  ⟨haltWith_eq .wait (s.past .wai), haltWith_eq .stop (s.past .stp)⟩

end Sys2Proof.Machine
end

section
/-! SUPPORT. Decode failure, the BRK trap and its return (60_exceptions.md R271, R272, R275). -/

namespace Sys2Proof.Machine

/-- Settles O8: an unassigned byte is one byte long, and its meaning is the decode failure with PC past it. -/
theorem unassignedByteStops : Obligations.UnassignedByteStops := fun op s =>
  calc exec (.unassigned op) s
      = decodeFailure op (s.past (.unassigned op)) := rfl
    _ = .fault (.decodeError op { s with pc := s.pc + 1, result := .decodeError op }) := rfl

/-- Settles O45: after RTI's own byte, three pulls at the next three SPs. -/
theorem rtiRestoresFlagsAndPC : Obligations.RtiRestoresFlagsAndPC := by
  intro s
  have two : s.sp + 1 + 1 = s.sp + 2 := add_assoc s.sp 1 1
  have three : s.sp + 2 + 1 = s.sp + 3 := add_assoc s.sp 2 1
  calc exec .rti s
      = .next ((s.withPC (s.pc + 1)).trapReturn.withResult (.cycles 6)) := rfl
    _ = _ := by
      simp only [State.trapReturn_eq, State.topWord, State.top, State.pop_eq, State.withPC, State.withResult, two, three]

/-- Memory after BRK's three pushes, in the order of R272. -/
def State.brkMemory (s : State) : Memory :=
  ((s.mem.write (stackAddress s.sp) (hiByte (s.pc + 2))).write (stackAddress (s.sp - 1)) (loByte (s.pc + 2))).write
    (stackAddress (s.sp - 2)) s.flags.stackedByBrk.toByte

/-- BRK pushes the address two past its opcode and the status byte, and takes PC from the vector as it stands then. -/
theorem exec_brk (s : State) :
    exec .brk s = .next { s with
      mem := s.brkMemory, sp := s.sp - 3, flags := s.flags.afterBrk,
      pc := s.brkMemory.read16 brkVector, result := .cycles 7 } := by
  have past : s.pc + 1 + 1 = s.pc + 2 := add_assoc s.pc 1 1
  have two : s.sp - 1 - 1 = s.sp - 2 := sub_sub s.sp 1 1
  have three : s.sp - 2 - 1 = s.sp - 3 := sub_sub s.sp 2 1
  calc exec .brk s
      = .next (((s.withPC (s.pc + 1)).trapEntry).withResult (.cycles 7)) := rfl
    _ = _ := by
      simp only [State.trapEntry_eq, State.pushWord_eq, State.push_eq, State.withPC, State.withResult, past, two,
        three, State.brkMemory]

/-- The three pushes of BRK go to three different addresses, wherever SP wraps. -/
theorem State.read_brkMemory (s : State) (a : Word) :
    s.brkMemory.read a =
      if a = stackAddress s.sp then hiByte (s.pc + 2)
      else if a = stackAddress (s.sp - 1) then loByte (s.pc + 2)
      else if a = stackAddress (s.sp - 2) then s.flags.stackedByBrk.toByte
      else s.mem.read a := by
  have first_ne_second : s.sp ≠ s.sp - 1 := by bv_omega
  have first_ne_third : s.sp ≠ s.sp - 2 := by bv_omega
  have second_ne_third : s.sp - 1 ≠ s.sp - 2 := by bv_omega
  simp only [State.brkMemory, Memory.read_write]
  by_cases first : a = stackAddress s.sp
  · simp only [first, stackAddress_inj, first_ne_second, first_ne_third, if_true, if_false]
  by_cases second : a = stackAddress (s.sp - 1)
  · simp only [second, stackAddress_inj, first_ne_second.symm, second_ne_third, if_true, if_false]
  · simp only [first, second, if_false]

/-- Above page one no push of BRK reaches. -/
theorem State.read_brkMemory_above (s : State) {a : Word} (h : 0x200 ≤ a.toNat) : s.brkMemory.read a = s.mem.read a := by
  have above (sp : Byte) : a ≠ stackAddress sp := by
    have := sp.isLt
    rw [ne_eq, eq_stackAddress_iff]
    omega
  rw [s.read_brkMemory, if_neg (above _), if_neg (above _), if_neg (above _)]

/-- Settles O44: the vector lies above the page that BRK writes, so it is read as it stood before. -/
theorem brkTakesTheTrap : Obligations.BrkTakesTheTrap := by
  intro s
  have vector : s.brkMemory.read16 brkVector = wordOf (s.mem.read 0xFFFE) (s.mem.read 0xFFFF) := by
    rw [Memory.read16, s.read_brkMemory_above (by decide), s.read_brkMemory_above (by decide)]
    rfl
  refine ⟨_, exec_brk s, ?_, s.read_brkMemory⟩
  rw [vector]
  rfl

/-- Settles O46: RTI pulls, from the three addresses BRK pushed to, the status byte and the address two past the BRK. -/
theorem rtiReturnsAfterBrk : Obligations.RtiReturnsAfterBrk := by
  intro s
  refine ⟨_, _, exec_brk s, rtiRestoresFlagsAndPC _, ?_,
    fun a ha => memoryChangesOnlyWhereStored _ _ _ (exec_brk s) a ha⟩
  have third : s.sp - 3 + 1 = s.sp - 2 := by bv_omega
  have second : s.sp - 3 + 2 = s.sp - 1 := by bv_omega
  have first : s.sp - 3 + 3 = s.sp := sub_add_cancel ..
  have status : s.brkMemory.read (stackAddress (s.sp - 2)) = s.flags.stackedByBrk.toByte := Memory.read_write_self ..
  have low : s.brkMemory.read (stackAddress (s.sp - 1)) = loByte (s.pc + 2) := by
    have ne : s.sp - 1 ≠ s.sp := by bv_omega
    rw [s.read_brkMemory, if_neg (mt stackAddress_inj.mp ne), if_pos rfl]
  have high : s.brkMemory.read (stackAddress s.sp) = hiByte (s.pc + 2) := by rw [s.read_brkMemory, if_pos rfl]
  simp only [third, second, first, status, low, high, wordOf_bytes, Flags.ofByte_toByte, Flags.stackedByBrk]

end Sys2Proof.Machine
end

section
/-! SUPPORT. What a step answers, in the order in which it is decided (60_exceptions.md R271, R274, R279). -/

namespace Sys2Proof.Machine

/-- No arm of `exec` refuses its instruction. -/
theorem exec_ne_refused (i : Instr) (s : State) (r : Refusal) : exec i s ≠ .refused r := by
  intro h
  cases i with
  | bcc _ | bcs _ | beq _ | bne _ | bmi _ | bpl _ | bvc _ | bvs _
  | bbr0 _ _ | bbr1 _ _ | bbr2 _ _ | bbr3 _ _ | bbr4 _ _ | bbr5 _ _ | bbr6 _ _ | bbr7 _ _
  | bbs0 _ _ | bbs1 _ _ | bbs2 _ _ | bbs3 _ _ | bbs4 _ _ | bbs5 _ _ | bbs6 _ _ | bbs7 _ _ =>
    nomatch (branchIf_eq _ _ _ s).symm.trans h
  | _ => nomatch h

/-- An instruction that is not the decode failure has a next state. -/
theorem exec_next_of_ne_unassigned {i : Instr} (s : State) (h : ∀ op, i ≠ .unassigned op) :
    ∃ t, exec i s = .next t := by
  cases run : exec i s with
  | next t => exact ⟨t, rfl⟩
  | fault f =>
    obtain ⟨op, hi, -⟩ := exec_fault run
    exact absurd hi (h op)
  | refused r => exact absurd run (exec_ne_refused i s r)

/-- The fetch gives an unassigned term for an unassigned byte only. -/
theorem State.fetch_ne_unassigned {s : State} (h : s.byteAt 0 ∉ unassignedBytes) (op : Byte) :
    s.fetch ≠ .unassigned op := by
  intro fetched
  obtain ⟨listed, rfl⟩ : op ∈ unassignedBytes ∧ op = s.byteAt 0 := by
    simpa [fetched, Instr.opcode] using s.fetch_opcode
  exact h listed

/-- How the step of an instruction with a next state ends: WAI and STP in `Halted`, the rest in a count. -/
theorem Leaves.result_eq {i : Instr} {s t : State} (left : Leaves i s t) :
    ∃ n, t.result = if i = .wai then .halted .wait else if i = .stp then .halted .stop else .cycles n := by
  by_cases wai : i = .wai
  · subst wai
    exact ⟨0, (left.halted .wait rfl).2⟩
  by_cases stp : i = .stp
  · subst stp
    exact ⟨0, (left.halted .stop rfl).2⟩
  obtain ⟨-, crossed, extra, -, counted⟩ := left.running (haltedBy_eq_none wai stp)
  exact ⟨_, by rw [if_neg wai, if_neg stp, counted]⟩

/-- Settles O7: a halted step is its report, an unassigned byte is the decode failure, and any other instruction has a
next state whose report the inversion lemma gives. -/
theorem stepOutcomesAreDecidedInOrder : Obligations.StepOutcomesAreDecidedInOrder := by
  intro s
  split
  next waiting => simp only [step, waiting, stayHalted, State.withResult]
  next stopped => simp only [step, stopped, stayHalted, State.withResult]
  next running =>
    rw [step_of_run running]
    split
    next unassigned =>
      rw [State.fetch_unassigned (by simpa using unassigned)]
      exact unassignedByteStops (s.byteAt 0) s
    next assigned =>
      have present := State.fetch_ne_unassigned (s := s) (by simpa using assigned)
      obtain ⟨t, run⟩ := exec_next_of_ne_unassigned s present
      obtain ⟨n, ends⟩ := (exec_leaves run).result_eq
      exact ⟨t, n, run, ends⟩

end Sys2Proof.Machine
end

section
/-! SUPPORT. Reset, the step lemma of the invariant, and the instruction of a word placed at PC (10_state.md R31;
70_reset_and_hazards.md R300, R302). -/

namespace Sys2Proof.Machine

/-- Settles O57: the next state's memory comes from writes, its report from the cycle table or from the halt. -/
theorem stepKeepsTheInvariant : Obligations.StepKeepsTheInvariant := fun _ _ => step_next_keeps_inv

theorem add_one_add_ofNat (a : Word) (k : Nat) : a + 1 + BitVec.ofNat 16 k = a + BitVec.ofNat 16 (k + 1) := by
  bv_omega

/-- Bytes stored at `a` and the following addresses leave every other address as it was. -/
theorem Memory.read_writeBytes_other {bytes : List Byte} {m : Memory} {a b : Word}
    (h : ∀ k < bytes.length, b ≠ a + BitVec.ofNat 16 k) : (m.writeBytes a bytes).read b = m.read b := by
  induction bytes generalizing m a with
  | nil => rfl
  | cons v rest ih =>
    have apart : b ≠ a := by simpa using h 0 (Nat.zero_lt_succ _)
    have beyond : ∀ k < rest.length, b ≠ a + 1 + BitVec.ofNat 16 k := by
      intro k hk
      rw [add_one_add_ofNat]
      exact h (k + 1) (Nat.succ_lt_succ hk)
    rw [Memory.writeBytes, ih beyond, Memory.read_write_other m v apart]

/-- Bytes that do not wrap around onto each other are read back where they were stored. -/
theorem Memory.read_writeBytes {bytes : List Byte} (fits : bytes.length ≤ 65536) (m : Memory) (a : Word) {k : Nat}
    (hk : k < bytes.length) : (m.writeBytes a bytes).read (a + BitVec.ofNat 16 k) = bytes[k] := by
  induction bytes generalizing m a k with
  | nil => nomatch hk
  | cons v rest ih =>
    rw [List.length_cons] at fits hk
    rw [Memory.writeBytes]
    cases k with
    | zero =>
      have later : ∀ j < rest.length, a + BitVec.ofNat 16 0 ≠ a + 1 + BitVec.ofNat 16 j := by
        intro j hj
        bv_omega
      rw [Memory.read_writeBytes_other later, BitVec.add_zero, Memory.read_write_self]
      rfl
    | succ j =>
      rw [← add_one_add_ofNat]
      exact ih (Nat.le_of_succ_le fits) (m.write a v) (a + 1) (Nat.lt_of_succ_lt_succ hk)

/-- The fetch finds the three bytes placed for it. -/
theorem State.codeBytes_placeCode (s : State) (b0 b1 b2 : Byte) :
    (s.placeCode [b0, b1, b2]).codeBytes = [b0, b1, b2] := by
  have placed : ∀ k (hk : k < 3), (s.placeCode [b0, b1, b2]).byteAt k = [b0, b1, b2][k] := fun _ =>
    Memory.read_writeBytes (bytes := [b0, b1, b2]) (by simp) s.mem s.pc
  rw [State.codeBytes, placed 0 (by decide), placed 1 (by decide), placed 2 (by decide)]
  rfl

theorem State.codeBytes_withFetchWord (s : State) (nbits w : Nat) :
    (s.withFetchWord nbits w).codeBytes = tableBytes nbits w :=
  s.codeBytes_placeCode _ _ _

theorem decode_of_decodeTableWord {nbits w : Nat} {i : Instr} (h : decodeTableWord nbits w = some i) :
    ∃ rest, decode (tableBytes nbits w) = .ok (i, rest) := by
  unfold decodeTableWord at h
  split at h
  next j rest read => exact ⟨rest, Option.some.inj h ▸ read⟩
  next => nomatch h

/-- Settles O9: the bytes at PC are the word's, so the step runs what the word decodes to. -/
theorem placedWordIsRunNext : Obligations.PlacedWordIsRunNext := by
  intro s nbits w i h
  obtain ⟨rest, read⟩ := decode_of_decodeTableWord h
  rw [← s.codeBytes_withFetchWord] at read
  exact stepRunsTheDecodedInstruction _ i rest rfl read

theorem hostMove_reset (p : Byte) (s : State) : hostMove (.reset p) s = .resetWith p s.mem := rfl

theorem Flags.cleared_toByte : Flags.cleared.toByte = 0x20 := by decide

/-- Settles O53: the state after `Reset` is built from `SP_RESET` and memory alone. -/
theorem resetGivesTheStatedValues : Obligations.ResetGivesTheStatedValues := by
  refine ⟨fun p s => ?_, fun p s s' same => ?_, rfl⟩
  · exact ⟨rfl, rfl, rfl, rfl, rfl, Flags.cleared_toByte, rfl, rfl, rfl, rfl⟩
  · rw [hostMove_reset, hostMove_reset, same]

end Sys2Proof.Machine
end

section
/-! SUPPORT. Reset establishes the invariant (10_state.md R31; 70_reset_and_hazards.md R300; log entries 1, 2, 3). -/

namespace Sys2Proof.Machine

/-- The memory under a reset is all that the invariant asks for: the port shows nothing, and HALT is RUN. -/
theorem State.resetWith_inv (p : Byte) {m : Memory} (canonical : m.wf = true) : (State.resetWith p m).Inv :=
  have agrees : Result.nothing.agrees .run = true := rfl
  ⟨canonical, agrees⟩

/-- Settles O56: the empty memory is canonical, for the model's `SP_RESET` as for every other. -/
theorem resetMeetsTheInvariant : Obligations.ResetMeetsTheInvariant :=
  ⟨State.resetWith_inv Config.spReset Memory.empty_wf, fun p => State.resetWith_inv p Memory.empty_wf⟩

end Sys2Proof.Machine
end
